-- ==== Sys2Proof/Word.lean ====
section
/-! DEFINITION. The word types of the WH40: bytes, 40-bit addresses, tags and the 16-bit sets (00_scope.md, Conventions). -/

namespace Sys2Proof

/-- One byte of memory, of a frame or of a message. -/
abbrev Byte := BitVec 8

/-- A 40-bit byte address (00_scope.md, Conventions). -/
abbrev Addr := BitVec 40

/-- A host tag, 0 to 63 (R135). -/
abbrev HostTag := BitVec 6

/-- A tag of the memory link, whose field is 8 bits wide (R140). -/
abbrev MemTag := BitVec 8

/-- A source number, 0 to 15 (R135). -/
abbrev Source := BitVec 4

/-- A set of windows, of sources or of events: bit i set when i is a member (11.2). -/
abbrev Set16 := BitVec 16

/-- A value of the 48-bit time base (R152). -/
abbrev Time := BitVec 48

end Sys2Proof
end

