-- ==== Sys2Proof/Syntax.lean ====
section
/-! DEFINITION. The commands of the WH40: one constructor of `Instr` for each row of spec/opcode_table.json. -/

namespace Sys2Proof

/-- The two kinds of request on either link (R135, R140). -/
inductive ReqKind where
  | read
  | write
deriving DecidableEq, Repr

/-- The status of a memory response (R140). -/
inductive MemStatus where
  | ok
  | fault
deriving DecidableEq, Repr

/-- What the port has received of the frame in progress (R162): the complete bytes, in order, the bits counted toward the
next byte, and, in `shift`, those bits, most significant first (R163). -/
structure Receiver where
  received : List Byte
  bitCount : Nat
  shift : Byte
deriving DecidableEq, Repr

/-- A frame of the management port after its first byte: the samples of MOSI at the further rising edges of SCLK, in order
(R163). What bytes they make is the port's work (`Receiver.sample`). -/
structure Frame where
  bits : List Bool
deriving DecidableEq, Repr

/-- The commands, one constructor per row of the table. A constructor that carries a `Frame` is a frame of the
management port whose byte 0 is the code of that row (10.6). -/
inductive Instr where
  /-- Assertion of RESET_N (R151). -/
  | pinReset
  /-- Release of RESET_N; `csLow` says that CS_N is low at the release (R163). -/
  | resetNRelease (csLow : Bool)
  /-- A READ_REQ arrives on the host link (R135, R137). -/
  | readReq (tag : HostTag) (source : Source) (addr : Addr) (len : Nat)
  /-- A WRITE_REQ arrives on the host link (R135, R137). -/
  | writeReq (tag : HostTag) (source : Source) (addr : Addr) (len : Nat) (data : List Byte)
  /-- The classifier takes the request at the ingress head (R22). -/
  | classification
  /-- The memory announces its credit count (R141). -/
  | creditAnnouncement (count : Nat)
  /-- A response with tag 64 plus `entry` arrives on the memory link (R27, R28). -/
  | prereadResponse (entry : BitVec 3) (status : MemStatus) (data : List Byte)
  /-- A response with a host tag arrives on the memory link (R147). -/
  | memoryResponse (tag : HostTag) (status : MemStatus) (data : List Byte)
  /-- A response with tag 72 arrives, answering a check read (R106, R107, R111). -/
  | checkReadResponse (status : MemStatus) (data : List Byte)
  /-- A response with tag 72 arrives, answering a restore write (R108, R109, R111). -/
  | restoreResponse (status : MemStatus)
  /-- A response with tag 73 plus `n` arrives, answering a drain line write (R123). -/
  | drainResponse (n : BitVec 2) (status : MemStatus)
  /-- A response with any tag arrives; where the tag is not outstanding it is stray (R148). -/
  | strayResponse (tag : MemTag) (status : MemStatus) (data : List Byte)
  /-- A tick of the time base completes (R152). -/
  | tick
  /-- A tick completes that brings e to the within of stage k (R92). -/
  | stageExpiry
  /-- A frame ends with no complete byte, after `count` rising edges of SCLK (R165, case 1). What was sampled is discarded
  (R163), so the command does not carry it. -/
  | emptyFrame (count : Fin 8)
  /-- A frame ends whose byte 0 is not an assigned code (R165, case 2). -/
  | unknownCommand (code : Byte) (f : Frame)
  | nop (f : Frame)
  | ident (f : Frame)
  | status (f : Frame)
  /-- A CLEAR frame of scope SESSION, or one that is short or whose scope code is not assigned (log entry 12). -/
  | clearSession (f : Frame)
  | clearWindows (f : Frame)
  | clearEvents (f : Frame)
  | clearAll (f : Frame)
  | engage (f : Frame)
  | bypass (f : Frame)
  | winSet (f : Frame)
  | winGet (f : Frame)
  | winEnable (f : Frame)
  | winDisable (f : Frame)
  | seqSet (f : Frame)
  | seqGet (f : Frame)
  | seqLength (f : Frame)
  | seqFire (f : Frame)
  | sessionStart (f : Frame)
  | sessionStop (f : Frame)
  | ringStatus (f : Frame)
  | ringRead (f : Frame)
  | ringRelease (f : Frame)
  | spillSet (f : Frame)
  | spillStatus (f : Frame)
  | spillConsume (f : Frame)
  | drainRestart (f : Frame)
  | rollbackStart (f : Frame)
  | rollbackAbort (f : Frame)
  | rollbackStatus (f : Frame)
  | holdRead (f : Frame)
  | timeRead (f : Frame)
  | timePrescale (f : Frame)
  | eventRead (f : Frame)
  | eventAck (f : Frame)
  | eventEnable (f : Frame)
  | faultRead (f : Frame)
  /-- The host link's signalling has completed its restart (R151). -/
  | hostCreditOffer
deriving DecidableEq, Repr

end Sys2Proof
end

