-- ==== Sys2Proof/Decode.lean ====
section
/-! DEFINITION. What the bits of a frame spell: the assembly of bytes from the samples of MOSI (R163), the port's decoding
of byte 0 (R165, 10.6), its inverse, and the table decoder. The table's rows give no bits, so `decodeTableWord` answers none
for every word. -/

namespace Sys2Proof

/-! ### Bits and bytes of a frame -/

/-- The bits of a byte, most significant first (R163). -/
def msbBits (b : Byte) : List Bool := (List.range 8).map fun i => b.getLsbD (7 - i)

/-- Nothing received yet (R163). -/
def Receiver.empty : Receiver := { received := [], bitCount := 0, shift := 0 }

/-- One sample of MOSI (R163): the next bit of the byte being received, most significant first; the eighth bit completes the
byte, which is appended to the received bytes, and the bit count returns to 0. -/
def Receiver.sample (r : Receiver) (b : Bool) : Receiver :=
  let shifted := r.shift <<< 1 ||| BitVec.ofNat 8 b.toNat
  if r.bitCount < 7 then { r with bitCount := r.bitCount + 1, shift := shifted }
  else { received := r.received ++ [shifted], bitCount := 0, shift := 0 }

/-- What a run of samples leaves received (R163). -/
def receive (bits : List Bool) : Receiver := bits.foldl Receiver.sample Receiver.empty

/-- The complete bytes of a frame after its first byte (R163, R165). -/
def Frame.args (f : Frame) : List Byte := (receive f.bits).received

/-- The bits of a byte left incomplete at the frame's end (R163). -/
def Frame.left (f : Frame) : Nat := (receive f.bits).bitCount

/-! ### Decoding -/

/-- The command codes of 10.6 and 11.1. -/
def assignedCodes : List Byte :=
  [0x00, 0x01, 0x02, 0x03, 0x08, 0x09, 0x10, 0x11, 0x12, 0x13, 0x18, 0x19, 0x1A, 0x1B, 0x20, 0x21, 0x28, 0x29, 0x2A,
   0x30, 0x31, 0x32, 0x33, 0x38, 0x39, 0x3A, 0x40, 0x48, 0x49, 0x50, 0x51, 0x52, 0x53]

/-- The command a table word spells. No row of spec/opcode_table.json gives bits (log entry 24). -/
def decodeTableWord (_nbits _w : Nat) : Option Instr := none

/-- The scope byte of a CLEAR frame picks the row (11.2). A frame with no scope byte, or with a scope code that is not
assigned, is given to CLEAR_SESSION (DESIGN CHOICE, log entry 12). -/
def decodeClear (f : Frame) : Instr :=
  match f.args.head? with
  | some 0x02 => .clearWindows f
  | some 0x03 => .clearEvents f
  | some 0x04 => .clearAll f
  | _ => .clearSession f

/-- The command of a frame whose byte 0 is `code` (10.6, 11.1, R165). -/
def decodeCode (code : Byte) (f : Frame) : Instr :=
  match code.toNat with
  | 0x00 => .nop f
  | 0x01 => .ident f
  | 0x02 => .status f
  | 0x03 => decodeClear f
  | 0x08 => .engage f
  | 0x09 => .bypass f
  | 0x10 => .winSet f
  | 0x11 => .winGet f
  | 0x12 => .winEnable f
  | 0x13 => .winDisable f
  | 0x18 => .seqSet f
  | 0x19 => .seqGet f
  | 0x1A => .seqLength f
  | 0x1B => .seqFire f
  | 0x20 => .sessionStart f
  | 0x21 => .sessionStop f
  | 0x28 => .ringStatus f
  | 0x29 => .ringRead f
  | 0x2A => .ringRelease f
  | 0x30 => .spillSet f
  | 0x31 => .spillStatus f
  | 0x32 => .spillConsume f
  | 0x33 => .drainRestart f
  | 0x38 => .rollbackStart f
  | 0x39 => .rollbackAbort f
  | 0x3A => .rollbackStatus f
  | 0x40 => .holdRead f
  | 0x48 => .timeRead f
  | 0x49 => .timePrescale f
  | 0x50 => .eventRead f
  | 0x51 => .eventAck f
  | 0x52 => .eventEnable f
  | 0x53 => .faultRead f
  | _ => .unknownCommand code f

/-- The command of a frame, by its samples of MOSI: byte 0, once complete, names it (R163, R165). -/
def decodeFrame (bits : List Bool) : Instr :=
  match (receive bits).received with
  | [] => .emptyFrame (Fin.ofNat 8 (receive bits).bitCount)
  | code :: _ => decodeCode code ⟨bits.drop 8⟩

/-- The bits that software clocks in for a command of the port; none for the rows that are no frame (10.6, 11.1). -/
def encodeFrame : Instr → Option (List Bool)
  | .emptyFrame count => some (List.replicate count.val false)
  | .unknownCommand code f => some (msbBits code ++ f.bits)
  | .nop f => some (msbBits 0x00 ++ f.bits)
  | .ident f => some (msbBits 0x01 ++ f.bits)
  | .status f => some (msbBits 0x02 ++ f.bits)
  | .clearSession f => some (msbBits 0x03 ++ f.bits)
  | .clearWindows f => some (msbBits 0x03 ++ f.bits)
  | .clearEvents f => some (msbBits 0x03 ++ f.bits)
  | .clearAll f => some (msbBits 0x03 ++ f.bits)
  | .engage f => some (msbBits 0x08 ++ f.bits)
  | .bypass f => some (msbBits 0x09 ++ f.bits)
  | .winSet f => some (msbBits 0x10 ++ f.bits)
  | .winGet f => some (msbBits 0x11 ++ f.bits)
  | .winEnable f => some (msbBits 0x12 ++ f.bits)
  | .winDisable f => some (msbBits 0x13 ++ f.bits)
  | .seqSet f => some (msbBits 0x18 ++ f.bits)
  | .seqGet f => some (msbBits 0x19 ++ f.bits)
  | .seqLength f => some (msbBits 0x1A ++ f.bits)
  | .seqFire f => some (msbBits 0x1B ++ f.bits)
  | .sessionStart f => some (msbBits 0x20 ++ f.bits)
  | .sessionStop f => some (msbBits 0x21 ++ f.bits)
  | .ringStatus f => some (msbBits 0x28 ++ f.bits)
  | .ringRead f => some (msbBits 0x29 ++ f.bits)
  | .ringRelease f => some (msbBits 0x2A ++ f.bits)
  | .spillSet f => some (msbBits 0x30 ++ f.bits)
  | .spillStatus f => some (msbBits 0x31 ++ f.bits)
  | .spillConsume f => some (msbBits 0x32 ++ f.bits)
  | .drainRestart f => some (msbBits 0x33 ++ f.bits)
  | .rollbackStart f => some (msbBits 0x38 ++ f.bits)
  | .rollbackAbort f => some (msbBits 0x39 ++ f.bits)
  | .rollbackStatus f => some (msbBits 0x3A ++ f.bits)
  | .holdRead f => some (msbBits 0x40 ++ f.bits)
  | .timeRead f => some (msbBits 0x48 ++ f.bits)
  | .timePrescale f => some (msbBits 0x49 ++ f.bits)
  | .eventRead f => some (msbBits 0x50 ++ f.bits)
  | .eventAck f => some (msbBits 0x51 ++ f.bits)
  | .eventEnable f => some (msbBits 0x52 ++ f.bits)
  | .faultRead f => some (msbBits 0x53 ++ f.bits)
  | .pinReset => none
  | .resetNRelease _ => none
  | .readReq _ _ _ _ => none
  | .writeReq _ _ _ _ _ => none
  | .classification => none
  | .creditAnnouncement _ => none
  | .prereadResponse _ _ _ => none
  | .memoryResponse _ _ _ => none
  | .checkReadResponse _ _ => none
  | .restoreResponse _ => none
  | .drainResponse _ _ => none
  | .strayResponse _ _ _ => none
  | .tick => none
  | .stageExpiry => none
  | .hostCreditOffer => none

end Sys2Proof
end

