-- ==== Sys2Proof/Config.lean ====
section
/-! DEFINITION. The values the spec leaves open, as constants without a body, so that no proof can see them. -/

namespace Sys2Proof

/-- A free value: byte `i` of the `k`-th link message whose data field does not have the number of bytes that its
length asks for. R135 and R140 give a message one byte for each byte of its length and state nothing of any other
message. DESIGN CHOICE, log entry 8 (safe). -/
opaque Config.unstatedByte (k i : Nat) : Byte

end Sys2Proof
end

