-- ==== Sys2Proof/Machine/State.lean ====
section
/-! DEFINITION. The state of the WH40: every piece of state the spec names, block by block, and its value after reset.
INVENTORY.md lists each with its rule. -/

namespace Sys2Proof.Machine

/-- The part has no fault that stops it: what the spec calls a fault is an effect on the state (log entry 25). -/
inductive Fault
deriving DecidableEq, Repr

/-- Why a command has no meaning. -/
inductive Refusal where
  /-- Raised by `exec` for a command without a meaning: safe, the machine stops. No arm raises it. -/
  | notModelled (mnemonic : String)
deriving DecidableEq, Repr

/-! ### Watch windows (01_watch_windows.md) -/

/-- The test a window applies to each touched element (R9). -/
inductive Condition where
  | any
  | matches
  | changes
deriving DecidableEq, Repr

/-- Whether hits of a window can refuse (R12). -/
inductive Guard where
  | off
  | always
  | afterFire
deriving DecidableEq, Repr

/-- The element size E of a window (R1, R4). -/
inductive ElemSize where
  | e1
  | e2
  | e4
  | e8
deriving DecidableEq, Repr

/-- A window record (R1). -/
structure Window where
  enabled : Bool
  base : Addr
  pitch : Nat
  width : Nat
  height : Nat
  sources : Set16
  condition : Condition
  element : ElemSize
  mask : BitVec 64
  value : BitVec 64
  record : Bool
  guard : Guard
deriving DecidableEq, Repr

/-- The Reset column of R1. -/
def Window.reset : Window where
  enabled := false
  base := 0
  pitch := 64
  width := 64
  height := 1
  sources := 0xFFFF
  condition := .any
  element := .e1
  mask := 0
  value := 0
  record := false
  guard := .off

/-! ### Links (08_the_memory_path.md) -/

/-- A host request as the host link delivered it (R135). A read carries no data. -/
structure HostReq where
  kind : ReqKind
  tag : HostTag
  source : Source
  addr : Addr
  len : Nat
  data : List Byte
deriving DecidableEq, Repr

/-- The status of a response to the host (R135). -/
inductive HostStatus where
  | ok
  | fault
  | refused
  | malformed
deriving DecidableEq, Repr

/-- What the part sends on the host link (R135, R136). -/
inductive HostMsg where
  | response (tag : HostTag) (status : HostStatus) (data : List Byte)
  | creditReturn
  | creditOffer (n : Nat)
deriving DecidableEq, Repr

/-- A request on the memory link, and an item of the path issue queue (R140, R143). -/
structure MemReq where
  kind : ReqKind
  tag : MemTag
  addr : Addr
  len : Nat
  data : List Byte
deriving DecidableEq, Repr

/-- The part's own record of an outstanding request (R146). For a drain line write, `item` is the first line of the
in-flight item whose line it carries (R123). -/
structure Outstanding where
  req : MemReq
  item : Option Nat
deriving DecidableEq, Repr

/-- The requesters of the issue arbiter (R145). -/
inductive Requester where
  | path
  | drain
deriving DecidableEq, Repr

/-- The host link's side of the part (R136, R137, R151). -/
structure HostLink where
  credit : Nat
  inPart : List HostTag
  started : Bool
  sent : List HostMsg
deriving DecidableEq, Repr

/-- The ingress queue, and the candidate set of its head while the head waits for a hold entry (R24, R137). -/
structure Ingress where
  queue : List HostReq
  waiting : Option Set16
deriving DecidableEq, Repr

/-- The memory link's side of the part (R140, R141, R144, R145). -/
structure MemLink where
  credit : Nat
  queue : List MemReq
  outstanding : List Outstanding
  lastGrant : Requester
  sent : List MemReq
deriving DecidableEq, Repr

/-! ### Rollback engine (06_rollback.md) -/

/-- The mode of a rollback (R100). -/
inductive RbMode where
  | force
  | checkSkip
  | checkStop
deriving DecidableEq, Repr

/-- The states of the rollback engine (R98). -/
inductive RbState where
  | idle
  | claiming
  | checking
  | restoring
  | aborting
deriving DecidableEq, Repr

/-- How a rollback ended (R98). -/
inductive RbResult where
  | none
  | done
  | conflict
  | fault
  | aborted
  | cleared
deriving DecidableEq, Repr

/-- The result an ABORTING engine will take (R98). -/
inductive RbPending where
  | aborted
  | cleared
deriving DecidableEq, Repr

/-- The rollback engine (R98). -/
structure Rollback where
  state : RbState
  mode : RbMode
  first : Nat
  cursor : Nat
  result : RbResult
  pendingResult : Option RbPending
  restored : Nat
  conflicts : Nat
  skipped : Nat
deriving DecidableEq, Repr

/-- The Reset column of R98. -/
def Rollback.reset : Rollback where
  state := .idle
  mode := .force
  first := 0
  cursor := 0
  result := .none
  pendingResult := none
  restored := 0
  conflicts := 0
  skipped := 0

/-- A claim on a line carries the line address and the mode (R104). -/
structure Claim where
  line : Addr
  mode : RbMode
deriving DecidableEq, Repr

/-! ### History ring (03_the_history_ring.md) -/

/-- The outcome of a recorded write (R44). -/
inductive RecOutcome where
  | pending
  | ok
  | fault
deriving DecidableEq, Repr

/-- The cause of a fire (R45). -/
inductive Cause where
  | sequence (stage : Nat)
  | manual
deriving DecidableEq, Repr

/-- The fields that a WRITE and a REFUSED record share (R44); `oldData` is none when old data is absent. -/
structure WriteInfo where
  addr : Addr
  len : Nat
  source : Source
  tag : HostTag
  windows : Set16
  oldData : Option (List Byte)
  newData : List Byte
deriving DecidableEq, Repr

/-- The kind of a record and the fields of its kind (R44, R45). -/
inductive RecBody where
  | write (w : WriteInfo) (outcome : RecOutcome) (restored : Bool)
  | refused (w : WriteInfo)
  | gap (skipped : Nat)
  | trigger (cause : Cause)
deriving DecidableEq, Repr

/-- A record of the ring (R44, R45). -/
structure Rec where
  seq : Nat
  time : Time
  body : RecBody
deriving DecidableEq, Repr

/-- A WRITE record that waits for a slot, with the time of its resolution (R32). -/
structure Draft where
  time : Time
  info : WriteInfo
deriving DecidableEq, Repr

/-- The append policy (R50). -/
inductive Policy where
  | skip
  | hold
deriving DecidableEq, Repr

/-- The history ring with its outcome map and the ring-slot arbiter's list (R43, R46, R48, R50, R51, R54, R57). -/
structure Ring where
  recs : List Rec
  outcomeMap : List (HostTag × Nat)
  policy : Policy
  threshold : Nat
  gap : Nat
  nextSeq : Nat
  slotList : List Nat
deriving DecidableEq, Repr

/-- The ring after pin reset (R64). -/
def Ring.reset : Ring where
  recs := []
  outcomeMap := []
  policy := .skip
  threshold := 256
  gap := 0
  nextSeq := 0
  slotList := []

/-! ### Hold table (02_held_writes_and_line_order.md) -/

/-- The write field of an entry: the host request and the candidate set formed at the ingress head (R19, R23). -/
structure HeldWrite where
  req : HostReq
  cands : Set16
deriving DecidableEq, Repr

/-- An item of a parked list (R26). A host item with an empty candidate set is a read or an unwatched write. -/
inductive Parked where
  | host (req : HostReq) (cands : Set16)
  | claim (c : Claim)
deriving DecidableEq, Repr

/-- The owner of a line, by the state of the entry (R19, R20). In SLOT_WAIT the old line is none when old-absent. -/
inductive HoldOwner where
  | reading (w : HeldWrite)
  | slotWait (w : HeldWrite) (old : Option (List Byte)) (draft : Draft)
  | checking
deriving DecidableEq, Repr

/-- A hold entry (R19). -/
inductive HoldEntry where
  | free
  | owned (line : Addr) (owner : HoldOwner) (parked : List Parked)
deriving DecidableEq, Repr

/-- The claimants of the free-entry arbiter (R25). -/
inductive Claimant where
  | head
  | rollback (c : Claim)
deriving DecidableEq, Repr

/-- The hold table and the free-entry arbiter's claimants, longest waiting first (R19, R25). -/
structure HoldTable where
  entries : Vector HoldEntry 8
  arbiter : List Claimant
deriving DecidableEq, Repr

/-! ### Session controller and trigger sequencer (04, 05) -/

/-- The states of the session (R65). -/
inductive SessionState where
  | idle
  | running
  | armed
  | fired
  | captured
  | stopped
deriving DecidableEq, Repr

/-- The kinds of session (R65). -/
inductive SessionKind where
  | continuous
  | triggered
deriving DecidableEq, Repr

/-- Why a session stopped (R65). -/
inductive StopReason where
  | command
  | exhausted
deriving DecidableEq, Repr

/-- The session controller (R65). -/
structure Session where
  state : SessionState
  kind : Option SessionKind
  stopReason : Option StopReason
  p : Nat
  q : Nat
  post : Nat
  guardsInForce : Bool
deriving DecidableEq, Repr

/-- The Reset column of R65. -/
def Session.reset : Session where
  state := .idle
  kind := none
  stopReason := none
  p := 0
  q := 0
  post := 0
  guardsInForce := false

/-- A stage record (R83); `window` is none for ANY. -/
structure Stage where
  window : Option (BitVec 4)
  target : Nat
  within : Nat
  quiet : Bool
deriving DecidableEq, Repr

/-- The Reset column of R83. -/
def Stage.reset : Stage where
  window := some 0
  target := 1
  within := 0
  quiet := false

/-- The states of the sequencer (R87). -/
inductive SeqState where
  | idle
  | counting
  | done
deriving DecidableEq, Repr

/-- The trigger sequencer (R83, R87). -/
structure Sequencer where
  stages : Vector Stage 8
  length : Nat
  state : SeqState
  stage : Nat
  count : Nat
  elapsed : Nat
deriving DecidableEq, Repr

/-- The sequencer after pin reset (R83, R87). -/
def Sequencer.reset : Sequencer where
  stages := Vector.replicate 8 Stage.reset
  length := 1
  state := .idle
  stage := 0
  count := 0
  elapsed := 0

/-! ### Drain engine (07_the_spill_drain.md) -/

/-- The states of the drain (R118). -/
inductive DrainState where
  | off
  | ready
  | running
  | stopping
  | faulting
  | faulted
deriving DecidableEq, Repr

/-- Why the drain is STOPPING (R117). -/
inductive StopCause where
  | session
  | clear
deriving DecidableEq, Repr

/-- The state a STOPPING drain will take (R117). -/
inductive DrainEnd where
  | ready
  | off
deriving DecidableEq, Repr

/-- An item of the in-flight list (R117). `seq` is none for a PAD. `bytes` holds the contents of the lines that are
written, in line order, fixed at placement (R120, R173). -/
structure DrainItem where
  first : Nat
  lines : Nat
  seq : Option Nat
  bytes : List Byte
  issued : Nat
  okCount : Nat
  faulted : Bool
deriving DecidableEq, Repr

/-- The line write presented to the issue arbiter (R117, R122); `item` is the first line of its item. -/
structure OfferedLine where
  item : Nat
  addr : Addr
  data : List Byte
deriving DecidableEq, Repr

/-- The drain engine (R117). Its tags outstanding are those of the memory link (`State.drainTags`). -/
structure Drain where
  state : DrainState
  base : Addr
  size : Nat
  watermark : Nat
  p : Nat
  c : Nat
  u : Nat
  q : Nat
  inFlight : List DrainItem
  offered : Option OfferedLine
  stopCause : Option StopCause
  endState : Option DrainEnd
deriving DecidableEq, Repr

/-- The Reset column of R117. -/
def Drain.reset : Drain where
  state := .off
  base := 0
  size := 0
  watermark := 0
  p := 0
  c := 0
  u := 0
  q := 0
  inFlight := []
  offered := none
  stopCause := none
  endState := none

/-! ### Time base, event unit, management port (09, 10) -/

/-- The time base (R152). -/
structure TimeBase where
  counter : Time
  prescale : BitVec 16
  tickPrescale : BitVec 16
  periods : Nat
deriving DecidableEq, Repr

/-- The time base after pin reset and CLEAR ALL (R152, R161). -/
def TimeBase.reset : TimeBase where
  counter := 0
  prescale := 0
  tickPrescale := 0
  periods := 0

/-- The thirteen events (9.3). -/
inductive Event where
  | fired
  | captured
  | seqExhausted
  | ringThreshold
  | ringFull
  | stageTimeout
  | refusal
  | prereadFault
  | spillWatermark
  | drainFault
  | rollbackDone
  | protocol
  | strayResponse
deriving DecidableEq, Repr

/-- The kinds of fault (R159). -/
inductive FaultKind where
  | protocol
  | strayResponse
  | prereadFault
  | drainFault
  | rollbackFault
deriving DecidableEq, Repr

/-- The port a fault came from (R159). -/
inductive FaultPort where
  | host
  | memory
deriving DecidableEq, Repr

/-- A FULL fault record (R159). -/
structure FaultRec where
  kind : FaultKind
  port : FaultPort
  tag : MemTag
  addr : Option Addr
  time : Time
  more : Bool
deriving DecidableEq, Repr

/-- The event unit (R154, R155, R159); `fault` is none when the fault record is EMPTY. -/
structure Events where
  pending : Set16
  enabled : Set16
  fault : Option FaultRec
deriving DecidableEq, Repr

/-- The event unit after pin reset, CLEAR EVENTS and CLEAR ALL (R161). -/
def Events.reset : Events where
  pending := 0
  enabled := 0
  fault := none

/-- The outcome codes of the port (R166). -/
inductive PortOutcome where
  | none
  | ok
  | unknown
  | short
  | badArg
  | badState
  | busy
  | notFound
deriving DecidableEq, Repr

/-- What MISO carried in a frame: the bytes, then the bits of an incomplete byte (R164). -/
structure Shifted where
  bytes : List Byte
  bits : List Bool
deriving DecidableEq, Repr

/-- The management port (R162, R163); `shifted` is what MISO carried in the last frame. -/
structure Port where
  heldOutcome : PortOutcome
  heldResult : List Byte
  inFrame : Bool
  rx : Receiver
  awaitRise : Bool
  shifted : Shifted
deriving DecidableEq, Repr

/-- The After pin reset column of R162. -/
def Port.reset : Port where
  heldOutcome := .none
  heldResult := []
  inFrame := false
  rx := { received := [], bitCount := 0, shift := 0 }
  awaitRise := false
  shifted := ⟨[], []⟩

/-- The state of the WH40. `pending` is the queue of commands that wait, `resetHeld` says that RESET_N is asserted, and
`freeCount` counts the free values taken (log entries 1, 3 and 8). -/
structure State where
  pending : List Instr
  resetHeld : Bool
  engaged : Bool
  host : HostLink
  ingress : Ingress
  mem : MemLink
  windows : Vector Window 16
  hold : HoldTable
  ring : Ring
  session : Session
  seqr : Sequencer
  rollback : Rollback
  drain : Drain
  time : TimeBase
  events : Events
  port : Port
  freeCount : Nat
deriving DecidableEq, Repr

/-- The machine right after pin reset, with RESET_N released (log entry 3): each block at the value its rule states
(R1, R19, R40, R64, R80, R83, R87, R98, R117, R151, R152, R161, R162). -/
def State.reset : State where
  pending := []
  resetHeld := false
  engaged := false
  host := { credit := 16, inPart := [], started := false, sent := [] }
  ingress := { queue := [], waiting := none }
  mem := { credit := 0, queue := [], outstanding := [], lastGrant := .drain, sent := [] }
  windows := Vector.replicate 16 Window.reset
  hold := { entries := Vector.replicate 8 .free, arbiter := [] }
  ring := Ring.reset
  session := Session.reset
  seqr := Sequencer.reset
  rollback := Rollback.reset
  drain := Drain.reset
  time := TimeBase.reset
  events := Events.reset
  port := Port.reset
  freeCount := 0

end Sys2Proof.Machine
end

