-- ==== Sys2Proof/Machine/Operands.lean ====
section
/-! DEFINITION. How values stand in bytes: the fields of a frame (R171, 11.3), the fields of a result (11.4), the codes
of 11.2, the record header (R172) and the bytes of spill lines (R173). -/

namespace Sys2Proof.Machine

/-! ### Byte order -/

/-- The number whose bytes, least significant first, are the list (00_scope.md, Byte order). -/
def leValue : List Byte → Nat
  | [] => 0
  | b :: bs => b.toNat + 256 * leValue bs

/-- The number whose bytes, most significant first, are the list (R171). -/
def beValue (bs : List Byte) : Nat := leValue bs.reverse

/-- `v` in `n` bytes, least significant first (R172, R173). -/
def leBytes : Nat → Nat → List Byte
  | 0, _ => []
  | n + 1, v => BitVec.ofNat 8 v :: leBytes n (v / 256)

/-- `v` in `n` bytes, most significant first (R171). -/
def beBytes (n v : Nat) : List Byte := (leBytes n v).reverse

/-- `n` zero bytes. -/
def zeros (n : Nat) : List Byte := List.replicate n 0

/-- The list in its first bytes, then zeros to `n` bytes (R61, R173). -/
def padTo (n : Nat) (bs : List Byte) : List Byte := bs ++ zeros (n - bs.length)

/-! ### Fields of a frame -/

/-- The argument field of `n` bytes at offset `off`, read whole, most significant byte first (R171). -/
def argField (args : List Byte) (off n : Nat) : Nat := beValue ((args.drop off).take n)

/-! ### Codes of 11.2 -/

/-- The byte of a yes/no field. -/
def yesNo (b : Bool) : Nat := if b then 1 else 0

/-- A yes/no code. -/
def yesNoOf : Nat → Option Bool
  | 0 => some false
  | 1 => some true
  | _ => none

def conditionOf : Nat → Option Condition
  | 0 => some .any
  | 1 => some .matches
  | 2 => some .changes
  | _ => none

def Condition.code : Condition → Nat
  | .any => 0
  | .matches => 1
  | .changes => 2

def guardOf : Nat → Option Guard
  | 0 => some .off
  | 1 => some .always
  | 2 => some .afterFire
  | _ => none

def Guard.code : Guard → Nat
  | .off => 0
  | .always => 1
  | .afterFire => 2

def elemSizeOf : Nat → Option ElemSize
  | 1 => some .e1
  | 2 => some .e2
  | 4 => some .e4
  | 8 => some .e8
  | _ => none

/-- The element size E in bytes, which is also its code. -/
def ElemSize.bytes : ElemSize → Nat
  | .e1 => 1
  | .e2 => 2
  | .e4 => 4
  | .e8 => 8

/-- The stage window codes: 0x00 to 0x0F, and 0xFF for ANY. -/
def stageWindowOf (n : Nat) : Option (Option (BitVec 4)) :=
  if n = 0xFF then some none else if n < 16 then some (some (BitVec.ofNat 4 n)) else none

def stageWindowCode : Option (BitVec 4) → Nat
  | none => 0xFF
  | some w => w.toNat

def sessionKindOf : Nat → Option SessionKind
  | 0 => some .continuous
  | 1 => some .triggered
  | _ => none

def policyOf : Nat → Option Policy
  | 0 => some .skip
  | 1 => some .hold
  | _ => none

/-- The scopes of CLEAR (11.2). -/
inductive ClearScope where
  | session
  | windows
  | events
  | all
deriving DecidableEq, Repr

def clearScopeOf : Nat → Option ClearScope
  | 1 => some .session
  | 2 => some .windows
  | 3 => some .events
  | 4 => some .all
  | _ => none

/-- The parts of a record that RING_READ returns (R61). -/
inductive RingPart where
  | header
  | old
  | new
deriving DecidableEq, Repr

def ringPartOf : Nat → Option RingPart
  | 0 => some .header
  | 1 => some .old
  | 2 => some .new
  | _ => none

def rbModeOf : Nat → Option RbMode
  | 0 => some .force
  | 1 => some .checkSkip
  | 2 => some .checkStop
  | _ => none

def SessionState.code : SessionState → Nat
  | .idle => 0
  | .running => 1
  | .armed => 2
  | .fired => 3
  | .captured => 4
  | .stopped => 5

def stopReasonCode : Option StopReason → Nat
  | none => 0
  | some .command => 1
  | some .exhausted => 2

def SeqState.code : SeqState → Nat
  | .idle => 0
  | .counting => 1
  | .done => 2

def DrainState.code : DrainState → Nat
  | .off => 0
  | .ready => 1
  | .running => 2
  | .stopping => 3
  | .faulting => 4
  | .faulted => 5

def RbState.code : RbState → Nat
  | .idle => 0
  | .claiming => 1
  | .checking => 2
  | .restoring => 3
  | .aborting => 4

def RbResult.code : RbResult → Nat
  | .none => 0
  | .done => 1
  | .conflict => 2
  | .fault => 3
  | .aborted => 4
  | .cleared => 5

/-- The state code of a hold entry. -/
def HoldEntry.stateCode : HoldEntry → Nat
  | .free => 0
  | .owned _ (.reading _) _ => 1
  | .owned _ (.slotWait _ _ _) _ => 2
  | .owned _ .checking _ => 3

/-- The owner kind code: HOST 1, ROLLBACK 2 (R19). -/
def HoldOwner.kindCode : HoldOwner → Nat
  | .reading _ => 1
  | .slotWait _ _ _ => 1
  | .checking => 2

def FaultKind.code : FaultKind → Nat
  | .protocol => 1
  | .strayResponse => 2
  | .prereadFault => 3
  | .drainFault => 4
  | .rollbackFault => 5

def FaultPort.code : FaultPort → Nat
  | .host => 0
  | .memory => 1

def RecOutcome.code : RecOutcome → Nat
  | .pending => 0
  | .ok => 1
  | .fault => 2

/-- The outcome codes of R166. -/
def PortOutcome.code : PortOutcome → Byte
  | .none => 0x00
  | .ok => 0x01
  | .unknown => 0x02
  | .short => 0x03
  | .badArg => 0x04
  | .badState => 0x05
  | .busy => 0x06
  | .notFound => 0x07

/-! ### Result layouts of 11.3 and 11.4 -/

/-- The result of WIN_GET (11.3, R15). -/
def windowBytes (w : Window) : List Byte :=
  beBytes 1 (yesNo w.enabled) ++ beBytes 5 w.base.toNat ++ beBytes 4 w.pitch ++ beBytes 4 w.width ++ beBytes 2 w.height ++
  beBytes 2 w.sources.toNat ++ beBytes 1 w.condition.code ++ beBytes 1 w.element.bytes ++ beBytes 8 w.mask.toNat ++
  beBytes 8 w.value.toNat ++ beBytes 1 (yesNo w.record) ++ beBytes 1 w.guard.code

/-- The result of SEQ_GET (11.3, R86). -/
def stageBytes (st : Stage) (n : Nat) : List Byte :=
  beBytes 1 (stageWindowCode st.window) ++ beBytes 2 st.target ++ beBytes 4 st.within ++ beBytes 1 (yesNo st.quiet) ++ beBytes 1 n

/-- The result of HOLD_READ for an entry (R41, 11.4). -/
def holdBytes : HoldEntry → List Byte
  | .free => zeros 9
  | .owned line owner parked =>
    let tag : Nat :=
      match owner with
      | .reading w => w.req.tag.toNat
      | .slotWait w _ _ => w.req.tag.toNat
      | .checking => 0
    beBytes 1 (HoldEntry.owned line owner parked).stateCode ++ beBytes 5 line.toNat ++ beBytes 1 owner.kindCode ++
      beBytes 1 tag ++ beBytes 1 parked.length

/-- The result of FAULT_READ (R160, 11.4). -/
def faultBytes : Option FaultRec → List Byte
  | none => zeros 15
  | some r =>
    beBytes 1 r.kind.code ++ beBytes 1 r.port.code ++ beBytes 1 r.tag.toNat ++ beBytes 5 (r.addr.getD 0).toNat ++
      beBytes 6 r.time.toNat ++ beBytes 1 (yesNo r.more)

/-! ### The record header (11.5, R172) and the spill lines (11.6, R173) -/

/-- The fields of a header as numbers, in the order of 11.5. A field the kind does not have is zero. -/
structure Header where
  kind : Nat := 0
  length : Nat := 0
  source : Nat := 0
  tag : Nat := 0
  seq : Nat := 0
  time : Nat := 0
  address : Nat := 0
  outcome : Nat := 0
  flags : Nat := 0
  cause : Nat := 0
  stage : Nat := 0
  windows : Nat := 0
  skipped : Nat := 0
  padLines : Nat := 0
deriving DecidableEq, Repr

/-- The flags byte: bit 0 old-absent, bit 1 restored (11.5). -/
def flagsByte (w : WriteInfo) (restored : Bool) : Nat := yesNo w.oldData.isNone + 2 * yesNo restored

/-- The header of a record as it stands (R172). -/
def Rec.header (r : Rec) : Header :=
  match r.body with
  | .write w outcome restored =>
    { kind := 1, length := w.len, source := w.source.toNat, tag := w.tag.toNat, seq := r.seq, time := r.time.toNat,
      address := w.addr.toNat, outcome := outcome.code, flags := flagsByte w restored, windows := w.windows.toNat }
  | .refused w =>
    { kind := 2, length := w.len, source := w.source.toNat, tag := w.tag.toNat, seq := r.seq, time := r.time.toNat,
      address := w.addr.toNat, flags := flagsByte w false, windows := w.windows.toNat }
  | .gap skipped => { kind := 3, seq := r.seq, time := r.time.toNat, skipped := skipped }
  | .trigger (.sequence k) => { kind := 4, seq := r.seq, time := r.time.toNat, cause := 1, stage := k }
  | .trigger .manual => { kind := 4, seq := r.seq, time := r.time.toNat, cause := 2 }

/-- The header of a PAD of `r` lines (R173). -/
def padHeader (r : Nat) : Header := { kind := 5, padLines := r }

/-- The 32 bytes of a header at the places of 11.5, its fields written by `num` (big- or little-endian). -/
def Header.bytesBy (num : Nat → Nat → List Byte) (h : Header) : List Byte :=
  num 1 h.kind ++ num 1 h.length ++ num 1 h.source ++ num 1 h.tag ++ num 4 h.seq ++ num 6 h.time ++ num 5 h.address ++
  num 1 h.outcome ++ num 1 h.flags ++ num 1 h.cause ++ num 1 h.stage ++ num 2 h.windows ++ num 4 h.skipped ++
  num 1 h.padLines ++ num 2 0

/-- The data of a record: its old data (empty when absent or when the kind has none) and its new data (R61, R173). -/
def Rec.oldBytes (r : Rec) : List Byte :=
  match r.body with
  | .write w _ _ => w.oldData.getD []
  | .refused w => w.oldData.getD []
  | .gap _ => []
  | .trigger _ => []

def Rec.newBytes (r : Rec) : List Byte :=
  match r.body with
  | .write w _ _ => w.newData
  | .refused w => w.newData
  | .gap _ => []
  | .trigger _ => []

/-- The length of a record's data; 0 for a kind that has none (R44, R45). -/
def Rec.dataLen (r : Rec) : Nat :=
  match r.body with
  | .write w _ _ => w.len
  | .refused w => w.len
  | .gap _ => 0
  | .trigger _ => 0

/-- The 64 result bytes of RING_READ (R61, R172). -/
def Rec.readBytes (r : Rec) : RingPart → List Byte
  | .header => padTo 64 (r.header.bytesBy beBytes)
  | .old => padTo 64 r.oldBytes
  | .new => padTo 64 r.newBytes

/-- The line count L of a record (R120). -/
def Rec.lineCount (r : Rec) : Nat :=
  match r.body with
  | .write w _ _ => if w.len ≤ 16 then 1 else if w.len ≤ 48 then 2 else 3
  | .refused w => if w.len ≤ 16 then 1 else if w.len ≤ 48 then 2 else 3
  | .gap _ => 1
  | .trigger _ => 1

/-- The run of 64 L bytes that a record becomes in the spill area (R173). -/
def Rec.spillRun (r : Rec) : List Byte :=
  padTo (64 * r.lineCount) (r.header.bytesBy leBytes ++ padTo r.dataLen r.oldBytes ++ r.newBytes)

/-- The one line that is written of a PAD of `r` lines (R173). -/
def padRun (r : Nat) : List Byte := padTo 64 ((padHeader r).bytesBy leBytes)

end Sys2Proof.Machine
end

