-- ==== Sys2Proof/Machine/Flags.lean ====
section
/-! DEFINITION. Sets, events, IRQ_N and the fault record (9.3, 9.4): every flag computation of the part. -/

namespace Sys2Proof.Machine

/-! ### Sets of 16 -/

/-- The set of the numbers 0 to 15 that satisfy `p` (11.2). -/
def setWhere (p : Nat → Bool) : Set16 := BitVec.ofFnLE fun i : Fin 16 => p i.val

/-- Whether some member of the set satisfies `p`. -/
def anyMember (m : Set16) (p : Nat → Bool) : Bool := (List.range 16).any fun i => m.getLsbD i && p i

/-! ### Events -/

/-- The bit numbers of the events (11.2). -/
def Event.bit : Event → Nat
  | .fired => 0
  | .captured => 1
  | .seqExhausted => 2
  | .ringThreshold => 3
  | .ringFull => 4
  | .stageTimeout => 5
  | .refusal => 6
  | .prereadFault => 7
  | .spillWatermark => 8
  | .drainFault => 9
  | .rollbackDone => 10
  | .protocol => 11
  | .strayResponse => 12

/-- The set that holds one event. -/
def Event.set (e : Event) : Set16 := BitVec.twoPow 16 e.bit

/-- The bits that are assigned to an event (11.2). -/
def assignedEvents : Set16 := 0x1FFF

/-- A block raises an event: it becomes a member of the pending set (R154). -/
def raise (e : Event) (s : State) : State := { s with events := { s.events with pending := s.events.pending ||| e.set } }

/-- Raise an event where a condition holds. -/
def raiseIf (c : Bool) (e : Event) (s : State) : State := if c then raise e s else s

/-- IRQ_N is asserted while the intersection of the pending and the enabled set is not empty (R157). -/
def State.irqAsserted (s : State) : Bool := s.events.pending &&& s.events.enabled != 0

/-! ### The fault record -/

/-- A fault is offered to the fault record: it fills an EMPTY one, and sets the more flag of a FULL one (R159). -/
def offerFault (kind : FaultKind) (port : FaultPort) (tag : MemTag) (addr : Option Addr) (s : State) : State :=
  match s.events.fault with
  | none =>
    { s with events := { s.events with
        fault := some { kind := kind, port := port, tag := tag, addr := addr, time := s.time.counter, more := false } } }
  | some r => { s with events := { s.events with fault := some { r with more := true } } }

end Sys2Proof.Machine
end

