-- ==== Sys2Proof/Machine/Ops.lean ====
section
/-! DEFINITION. The operations that several commands share: lines, the two links, the hold table with its walks and its
free-entry arbiter, the engine's claims, the ring's records, the drain's stop and the session stop. Each changes a state
into a state; the commands' meanings are built from them. -/

namespace Sys2Proof.Machine

/-! ### Lines and windows -/

/-- The line address: the address with its low 6 bits cleared (00_scope.md). -/
def lineOf (a : Addr) : Addr := a &&& ~~~ 63#40

/-- The place of an address within its line. -/
def lineOffset (a : Addr) : Nat := a.toNat % 64

/-- The part's request breaks the extent rule: length 0, above 64, or bytes in more than one line (R138). -/
def malformed (r : HostReq) : Bool := r.len == 0 || decide (64 < r.len) || decide (64 < lineOffset r.addr + r.len)

/-- The window record at an index of the table. -/
def State.window (s : State) (i : Nat) : Window := (s.windows[i]?).getD Window.reset

/-- The stage record at an index of the list. -/
def State.stageAt (s : State) (i : Nat) : Stage := (s.seqr.stages[i]?).getD Stage.reset

/-- A byte at address `a` lies inside the window (R2). -/
def Window.inside (w : Window) (a : Nat) : Bool :=
  decide (w.base.toNat ≤ a) && decide ((a - w.base.toNat) / w.pitch < w.height) &&
    decide ((a - w.base.toNat) % w.pitch < w.width)

/-- The addresses of the bytes of a request. -/
def HostReq.bytesAt (r : HostReq) : List Nat := (List.range r.len).map fun k => r.addr.toNat + k

/-! ### Link data -/

/-- The data of a message of length `n`: its bytes where it carries one for each byte of the length (R135, R140), and
otherwise free values (log entry 8). -/
def linkData (n : Nat) (data : List Byte) (k : Nat) : List Byte :=
  if data.length = n then data else (List.range n).map (Config.unstatedByte k)

/-- A message whose data does not fit its length uses up one number of the free-value counter. -/
def useFree (n : Nat) (data : List Byte) (s : State) : State :=
  if data.length = n then s else { s with freeCount := s.freeCount + 1 }

/-! ### The host link -/

/-- A RESPONSE is sent: its credit returns to the host and its tag stops counting as in the part (R136, R139). -/
def respond (tag : HostTag) (status : HostStatus) (data : List Byte) (s : State) : State :=
  { s with host := { s.host with
      credit := s.host.credit + 1, inPart := s.host.inPart.erase tag, sent := s.host.sent ++ [.response tag status data] } }

/-- PROTOCOL is raised and the violation offered to the fault record (R137, R138). -/
def violation (r : HostReq) (s : State) : State :=
  offerFault .protocol .host (r.tag.setWidth 8) (some r.addr) (raise .protocol s)

/-! ### The path issue queue -/

/-- An item is appended to the tail of the path issue queue (R144). -/
def enqueue (m : MemReq) (s : State) : State := { s with mem := { s.mem with queue := s.mem.queue ++ [m] } }

/-- The item of a host request: the request as the host sent it, with its tag (R143). -/
def HostReq.item (r : HostReq) : MemReq := { kind := r.kind, tag := r.tag.setWidth 8, addr := r.addr, len := r.len, data := r.data }

/-- The pre-read of hold entry `i` for a line (R23). -/
def preRead (i : Nat) (line : Addr) : MemReq := { kind := .read, tag := BitVec.ofNat 8 (64 + i), addr := line, len := 64, data := [] }

/-- The check read of a line (R105). -/
def checkRead (line : Addr) : MemReq := { kind := .read, tag := 72, addr := line, len := 64, data := [] }

/-- The restore write of a WRITE record whose old data is present (R108). -/
def restoreOf (r : Rec) : Option MemReq :=
  match r.body with
  | .write w _ _ => w.oldData.map fun old => { kind := .write, tag := 72, addr := w.addr, len := w.len, data := old }
  | .refused _ => none
  | .gap _ => none
  | .trigger _ => none

/-! ### Records in the ring -/

/-- The record with a sequence number (R43). -/
def Ring.find (r : Ring) (seq : Nat) : Option Rec := r.recs.find? fun x => x.seq == seq

/-- The free slots (R43). -/
def Ring.free (r : Ring) : Nat := 512 - r.recs.length

/-- The last sequence number (R47). -/
def lastSeq : Nat := 4294967295

/-- The gap counter, and a count put into a GAP record, saturate (R51, R52). -/
def saturate (n : Nat) : Nat := min n 4294967295

/-! ### The hold table -/

def State.entry (s : State) (i : Nat) : HoldEntry := (s.hold.entries[i]?).getD .free

def State.setEntry (s : State) (i : Nat) (e : HoldEntry) : State :=
  { s with hold := { s.hold with entries := s.hold.entries.setIfInBounds i e } }

/-- The line of an owning entry. -/
def HoldEntry.line? : HoldEntry → Option Addr
  | .free => none
  | .owned line _ _ => some line

def HoldEntry.isFree : HoldEntry → Bool
  | .free => true
  | .owned _ _ _ => false

def HoldEntry.isChecking : HoldEntry → Bool
  | .owned _ .checking _ => true
  | .owned _ (.reading _) _ => false
  | .owned _ (.slotWait _ _ _) _ => false
  | .free => false

/-- The lowest-numbered entry that satisfies `p`. -/
def State.findEntry (s : State) (p : HoldEntry → Bool) : Option Nat := (List.range 8).find? fun i => p (s.entry i)

/-- The entry that owns a line (R21). -/
def State.ownerOf (s : State) (line : Addr) : Option Nat := s.findEntry fun e => e.line? == some line

/-- The lowest-numbered FREE entry (R23, R36). -/
def State.freeEntry (s : State) : Option Nat := s.findEntry HoldEntry.isFree

/-- An item joins the end of an owning entry's parked list (R22, R26). -/
def park (i : Nat) (x : Parked) (s : State) : State :=
  match s.entry i with
  | .free => s
  | .owned line owner parked => s.setEntry i (.owned line owner (parked ++ [x]))

def Parked.isClaim : Parked → Bool
  | .host _ _ => false
  | .claim _ => true

def Claimant.isHead : Claimant → Bool
  | .head => true
  | .rollback _ => false

/-- A claimant is the rollback engine, waiting for the line. -/
def Claimant.claims (line : Addr) : Claimant → Bool
  | .head => false
  | .rollback c => c.line == line

/-- The write waiting at the ingress head with the candidate set formed there (R24). -/
def State.waitingHead (s : State) : Option HeldWrite :=
  match s.ingress.queue, s.ingress.waiting with
  | r :: _, some cands => some { req := r, cands := cands }
  | _, _ => none

/-- The head leaves the ingress queue, and the next request reaches it. -/
def popHead (s : State) : State := { s with ingress := { queue := s.ingress.queue.tail, waiting := none } }

def setArbiter (l : List Claimant) (s : State) : State := { s with hold := { s.hold with arbiter := l } }

/-- Entry `i` comes to be READING for a held write, with a parked list, and its pre-read is queued (R23, R34). -/
def own (i : Nat) (w : HeldWrite) (parked : List Parked) (s : State) : State :=
  enqueue (preRead i (lineOf w.req.addr)) (s.setEntry i (.owned (lineOf w.req.addr) (.reading w) parked))

/-- A watched write takes a FREE entry (R23). An engine claim on the arbiter for the same line leaves the arbiter and
parks in this entry (R36). -/
def takeEntry (i : Nat) (w : HeldWrite) (s : State) : State :=
  match s.hold.arbiter.find? (Claimant.claims (lineOf w.req.addr)) with
  | some (.rollback c) =>
    setArbiter (s.hold.arbiter.filter fun x => !x.claims (lineOf w.req.addr)) (own i w [.claim c] s)
  | _ => own i w [] s

/-- The engine's restore write of the record at its cursor is queued, and the engine waits for its response (R104, R108). -/
def queueRestore (s : State) : State :=
  let s1 : State := { s with rollback := { s.rollback with state := .restoring } }
  match (s.ring.find s.rollback.cursor).bind restoreOf with
  | some m => enqueue m s1
  | none => s1

/-- The engine holds entry `i` for a check, with a parked list, and its check read is queued (R36, R105). -/
def holdForCheck (i : Nat) (line : Addr) (parked : List Parked) (s : State) : State :=
  enqueue (checkRead line)
    ({ s with rollback := { s.rollback with state := .checking } }.setEntry i (.owned line .checking parked))

/-- An entry has become FREE and goes to the claimant that has waited longest (R25). For a FORCE step the entry is
released in the same event (R36), to the ingress head where that wanted the same line (R24), else to the next claimant. -/
def offerFree (i : Nat) : List Claimant → State → State
  | [], s => s.setEntry i .free
  | .head :: rest, s =>
    match s.waitingHead with
    | some w => takeEntry i w (popHead (setArbiter rest s))
    | none => (setArbiter rest s).setEntry i .free
  | .rollback c :: rest, s =>
    match s.waitingHead with
    | some w =>
      if lineOf w.req.addr = c.line then
        let s1 := popHead (setArbiter (rest.filter fun x => !x.isHead) s)
        match c.mode with
        | .force => own i w [] (queueRestore s1)
        | .checkSkip => holdForCheck i c.line [.host w.req w.cands] s1
        | .checkStop => holdForCheck i c.line [.host w.req w.cands] s1
      else
        match c.mode with
        | .force => offerFree i rest (queueRestore (setArbiter rest s))
        | .checkSkip => holdForCheck i c.line [] (setArbiter rest s)
        | .checkStop => holdForCheck i c.line [] (setArbiter rest s)
    | none =>
      match c.mode with
      | .force => offerFree i rest (queueRestore (setArbiter rest s))
      | .checkSkip => holdForCheck i c.line [] (setArbiter rest s)
      | .checkStop => holdForCheck i c.line [] (setArbiter rest s)

/-- The walk of a released entry's parked list (R34): reads and unwatched writes are queued, a watched write becomes the
owner, a claim passes the entry to the engine, and with the list empty the entry is FREE. -/
def walk (i : Nat) : List Parked → State → State
  | [], s => offerFree i s.hold.arbiter s
  | .host r cands :: rest, s =>
    if cands = 0 then walk i rest (enqueue r.item s) else own i { req := r, cands := cands } rest s
  | .claim c :: rest, s =>
    match c.mode with
    | .force => walk i rest (queueRestore s)
    | .checkSkip => holdForCheck i c.line rest s
    | .checkStop => holdForCheck i c.line rest s

/-- An owning entry is released (R34). -/
def release (i : Nat) (s : State) : State :=
  match s.entry i with
  | .free => s
  | .owned _ _ parked => walk i parked s

/-- The entry the engine holds in CHECKING is released (R36). -/
def releaseChecking (s : State) : State :=
  match s.findEntry HoldEntry.isChecking with
  | some i => release i s
  | none => s

/-- The claim is withdrawn from wherever it waits (R37). -/
def withdrawClaim (s : State) : State :=
  { s with hold :=
      { entries := s.hold.entries.map fun e =>
          match e with
          | .free => .free
          | .owned line owner parked => .owned line owner (parked.filter fun x => !x.isClaim)
        arbiter := s.hold.arbiter.filter Claimant.isHead } }

/-! ### Slot waits -/

/-- Every entry of the list leaves SLOT_WAIT: its write is queued unrecorded and it is released, in list order (R32, R55,
R56). At a switch to BYPASS the gap counter grows for each (`count`), at a stop it does not. -/
def releaseSlots (count : Bool) : List Nat → State → State
  | [], s => { s with ring := { s.ring with slotList := [] } }
  | i :: rest, s =>
    let s1 : State := if count then { s with ring := { s.ring with gap := saturate (s.ring.gap + 1) } } else s
    match s1.entry i with
    | .owned _ (.slotWait w _ _) _ => releaseSlots count rest (release i (enqueue w.req.item s1))
    | .owned _ (.reading _) _ => releaseSlots count rest s1
    | .owned _ .checking _ => releaseSlots count rest s1
    | .free => releaseSlots count rest s1

/-! ### The drain's outstanding tags and its stops -/

/-- A tag of the drain engine (R140). -/
def isDrainTag (t : MemTag) : Bool := decide (73 ≤ t.toNat) && decide (t.toNat ≤ 76)

/-- The drain tags outstanding (R117, R140). -/
def State.drainTags (s : State) : List MemTag := (s.mem.outstanding.map fun o => o.req.tag).filter isDrainTag

/-- The in-flight list is emptied and q becomes p; no line is offered and no stop is under way (R129, R131, R132). -/
def Drain.emptied (d : Drain) : Drain :=
  { d with inFlight := [], q := d.p, offered := none, stopCause := none, endState := none }

/-- The configuration is gone: every field at its reset value (R119, R133). -/
def drainOff (s : State) : State := { s with drain := Drain.reset }

/-- A session stop reaches a RUNNING drain (R131). Other states are kept (R66). -/
def drainStop (s : State) : State :=
  if s.drain.state = .running then
    if s.drainTags = [] then { s with drain := { s.drain.emptied with state := .ready } }
    else
      { s with drain := { s.drain with
          state := .stopping, offered := none, stopCause := some .session, endState := some .ready } }
  else s

/-- A clear with drain writes outstanding: STOPPING with stop cause CLEAR (R132, R133). -/
def drainClearing (e : DrainEnd) (s : State) : State :=
  { s with drain := { s.drain.emptied with state := .stopping, stopCause := some .clear, endState := some e } }

/-- CLEAR SESSION reaches a drain that is RUNNING, STOPPING or FAULTING (R132). -/
def drainClearWorking (e : DrainEnd) (s : State) : State :=
  if s.drainTags = [] then { s with drain := { s.drain.emptied with state := .ready } } else drainClearing e s

/-- CLEAR SESSION reaches the drain (R132). A STOPPING of an earlier clear keeps its end state. -/
def drainClearSession (s : State) : State :=
  match s.drain.state with
  | .off => s
  | .ready => s
  | .faulted => { s with drain := { s.drain.emptied with state := .ready } }
  | .running => drainClearWorking .ready s
  | .faulting => drainClearWorking .ready s
  | .stopping =>
    if s.drain.stopCause = some .clear then drainClearing (s.drain.endState.getD .ready) s else drainClearWorking .ready s

/-- CLEAR ALL reaches the drain (R133). -/
def drainClearAll (s : State) : State := if s.drainTags = [] then drainOff s else drainClearing .off s

/-! ### The session stop -/

/-- The sequencer goes to IDLE with k, c and e at 0 (R88, R96). -/
def seqIdle (s : State) : State :=
  { s with seqr := { s.seqr with state := .idle, stage := 0, count := 0, elapsed := 0 } }

/-- A session stop in all its effects: STOPPED with the reason, slot waits released unrecorded, the sequencer IDLE, a
RUNNING drain stopped (R47, R56, R77, R78). -/
def stopSession (reason : StopReason) (s : State) : State :=
  drainStop (seqIdle (releaseSlots false s.ring.slotList
    { s with session := { s.session with state := .stopped, stopReason := some reason } }))

end Sys2Proof.Machine
end

