-- ==== Sys2Proof/Machine/WindowOps.lean ====
section
/-! DEFINITION. The candidate test at the ingress head and the hit test at resolution (1.4, 1.5), and the guards (1.6). -/

namespace Sys2Proof.Machine

/-- A window is a candidate of a write: it is enabled, watches the source and holds a byte of the write (R5). -/
def Window.candidate (w : Window) (r : HostReq) : Bool :=
  w.enabled && w.sources.getLsbD r.source.toNat && r.bytesAt.any w.inside

/-- The candidate set formed at the ingress head: a read has none, nor has a write classified in BYPASS (R5). -/
def State.candidates (s : State) (r : HostReq) : Set16 :=
  match r.kind with
  | .read => 0
  | .write => if s.engaged then setWhere fun i => (s.window i).candidate r else 0

/-- The line's bytes after the write: the old bytes with every written byte replaced (R9). -/
def newLine (old : List Byte) (r : HostReq) : List Byte :=
  old.take (lineOffset r.addr) ++ r.data ++ old.drop (lineOffset r.addr + r.len)

/-- The `e`-byte element that holds the byte at address `a`, out of the line's bytes, read little-endian (R4). -/
def elementAt (line : List Byte) (e a : Nat) : BitVec 64 :=
  BitVec.ofNat 64 (leValue ((line.drop (a % 64 / e * e)).take e))

/-- The E least significant bytes of a mask or value (R4). -/
def ElemSize.cut (e : ElemSize) (v : BitVec 64) : BitVec 64 := v &&& BitVec.ofNat 64 (2 ^ (8 * e.bytes) - 1)

/-- The condition of a window for the touched element that holds the byte at address `a` (R9). -/
def Window.conditionAt (w : Window) (old : List Byte) (r : HostReq) (a : Nat) : Bool :=
  match w.condition with
  | .any => true
  | .matches => (elementAt (newLine old r) w.element.bytes a &&& w.mask) == (w.value &&& w.mask)
  | .changes => ((elementAt (newLine old r) w.element.bytes a ^^^ elementAt old w.element.bytes a) &&& w.mask) != 0

/-- An enabled window is hit: its condition is true for a touched element, which is one that holds a byte both written
and inside (R8, R9). With old bytes absent it is hit whatever its fields (R10). -/
def Window.hitBy (w : Window) (r : HostReq) : Option (List Byte) → Bool
  | some old => r.bytesAt.any fun a => w.inside a && w.conditionAt old r a
  | none => true

/-- The hit set of a write: the candidates that are enabled at resolution and hit (R8, R10, R11). -/
def State.hitSet (s : State) (w : HeldWrite) (old : Option (List Byte)) : Set16 :=
  setWhere fun i => w.cands.getLsbD i && (s.window i).enabled && (s.window i).hitBy w.req old

/-- A guard is in force (R12). -/
def State.guardInForce (s : State) : Guard → Bool
  | .off => false
  | .always => true
  | .afterFire => s.session.guardsInForce

/-- The write is refused: a member of the hit set has its guard in force (R29, step 2). -/
def State.refuses (s : State) (hits : Set16) : Bool := anyMember hits fun i => s.guardInForce (s.window i).guard

/-- The members of the hit set with record yes (R11, R31). -/
def State.recordSet (s : State) (hits : Set16) : Set16 := setWhere fun i => hits.getLsbD i && (s.window i).record

end Sys2Proof.Machine
end

