-- ==== Sys2Proof/Machine/RingOps.lean ====
section
/-! DEFINITION. Records joining the ring: the appends of a continuous and of a triggered session, the ring-slot arbiter,
the fire, the sequencer's count, and the resolution of a held write that uses them (2.4, 3.4, 4.4, 4.5, 5.3). -/

namespace Sys2Proof.Machine

/-- The session is in a recording state (R66). -/
def State.recording (s : State) : Bool :=
  match s.session.state with
  | .running => true
  | .armed => true
  | .fired => true
  | .idle => false
  | .captured => false
  | .stopped => false

/-! ### One append -/

/-- The outcome map pair that a record adds when it is appended (R48). -/
def RecBody.pairs (b : RecBody) (seq : Nat) : List (HostTag × Nat) :=
  match b with
  | .write w _ _ => [(w.tag, seq)]
  | .refused _ => []
  | .gap _ => []
  | .trigger _ => []

/-- A record joins the ring at its newest end with the next sequence number (R43, R46), in the place of the oldest one
where `discard` (R70). An append that raises the count to the threshold raises RING_THRESHOLD (R57). -/
def pushRec (discard : Bool) (body : RecBody) (time : Time) (s : State) : State :=
  raiseIf (!discard && s.ring.recs.length + 1 == s.ring.threshold) .ringThreshold
    { s with ring := { s.ring with
        recs := (if discard then s.ring.recs.tail else s.ring.recs) ++ [{ seq := s.ring.nextSeq, time := time, body := body }]
        outcomeMap := s.ring.outcomeMap ++ body.pairs s.ring.nextSeq
        nextSeq := s.ring.nextSeq + 1 } }

/-- The numbers are exhausted by a WRITE, REFUSED or GAP record: SEQ_EXHAUSTED, and the session stops (R47). -/
def exhaust (s : State) : State := stopSession .exhausted (raise .seqExhausted s)

/-- An append of a WRITE, REFUSED or GAP record, with the stop where it takes the last number (R47). -/
def appendRec (discard : Bool) (body : RecBody) (time : Time) (s : State) : State :=
  if s.ring.nextSeq = lastSeq then exhaust (pushRec discard body time s) else pushRec discard body time s

/-- A GAP record with a skipped count is appended, and the gap counter returns to 0 (R45, R51). -/
def appendGap (skipped : Nat) (s : State) : State :=
  appendRec false (.gap skipped) s.time.counter { s with ring := { s.ring with gap := 0 } }

/-! ### Continuous sessions -/

/-- The SKIP rows (R52). -/
def appendSkip (body : RecBody) (time : Time) (s : State) : State :=
  if s.ring.free = 0 then raise .ringFull { s with ring := { s.ring with gap := saturate (s.ring.gap + 1) } }
  else if s.ring.gap = 0 then appendRec false body time s
  else if s.ring.free = 1 then appendGap (saturate (s.ring.gap + 1)) s
  else
    let s1 := appendGap s.ring.gap s
    if s1.session.state = .running then appendRec false body time s1 else s1

/-- The WRITE record of a draft, as it is when appended (R31, R44). -/
def Draft.body (d : Draft) : RecBody := .write d.info .pending false

/-- The HOLD rows for a write at its resolution (R53); the answer's second part says that the entry waits for a slot. A
GAP that takes the last number stops the session, and the write then goes ahead unrecorded (R47). -/
def appendHold (d : Draft) (s : State) : State × Bool :=
  if s.ring.free = 0 then (raise .ringFull s, true)
  else if s.ring.gap = 0 then (appendRec false d.body d.time s, false)
  else
    let s1 := appendGap s.ring.gap s
    if s1.session.state = .running then
      if s.ring.free = 1 then (s1, true) else (appendRec false d.body d.time s1, false)
    else (s1, false)

/-- A member of the ring-slot arbiter's list is recorded: it leaves the list, its record is appended with the time of its
resolution, its write is queued and its entry released (R32, R54). -/
def serveSlot (i : Nat) (w : HeldWrite) (d : Draft) (rest : List Nat) (s : State) : State :=
  release i (enqueue w.req.item (appendRec false d.body d.time { s with ring := { s.ring with slotList := rest } }))

/-- The ring-slot arbiter serves its list from the oldest member while a slot is free in a RUNNING session (R54). -/
def serveList : List Nat → State → State
  | [], s => s
  | i :: rest, s =>
    if s.session.state = .running ∧ s.ring.free ≠ 0 then
      match s.entry i with
      | .owned _ (.slotWait w _ d) _ =>
        if s.ring.gap = 0 then serveList rest (serveSlot i w d rest s)
        else
          let s1 := appendGap s.ring.gap s
          if s1.session.state = .running ∧ s.ring.free ≠ 1 then serveList rest (serveSlot i w d rest s1) else s1
      | .owned _ (.reading _) _ => s
      | .owned _ .checking _ => s
      | .free => s
    else s

/-- Slots that have become free are offered to the ring-slot arbiter (R54). -/
def serveSlots (s : State) : State := serveList s.ring.slotList s

/-! ### Triggered sessions -/

/-- A record that is due in ARMED is placed by P (R70). -/
def appendArmed (body : RecBody) (time : Time) (s : State) : State :=
  if s.session.p = 0 then s
  else appendRec (decide (s.session.p ≤ s.ring.recs.length)) body time s

/-- A record that is due in FIRED is appended and counts toward Q; the Q-th brings CAPTURED, unless it takes the last
number (R71, R47). -/
def appendFired (body : RecBody) (time : Time) (s : State) : State :=
  let s0 := pushRec false body time s
  let s1 : State := { s0 with session := { s0.session with post := s0.session.post + 1 } }
  if s.ring.nextSeq = lastSeq then exhaust s1
  else if s1.session.q ≤ s1.session.post then raise .captured { s1 with session := { s1.session with state := .captured } }
  else s1

/-- A REFUSED record that is due (R30, R50, R69). -/
def appendRefused (info : WriteInfo) (s : State) : State :=
  match s.session.state with
  | .running => appendSkip (.refused info) s.time.counter s
  | .armed => appendArmed (.refused info) s.time.counter s
  | .fired => appendFired (.refused info) s.time.counter s
  | .idle => s
  | .captured => s
  | .stopped => s

/-- A WRITE record that is due (R31, R50, R69); the second part says that the entry waits for a slot. -/
def appendWrite (d : Draft) (s : State) : State × Bool :=
  match s.session.state with
  | .running =>
    if s.ring.policy = .hold ∧ s.engaged = true then appendHold d s else (appendSkip d.body d.time s, false)
  | .armed => (appendArmed d.body d.time s, false)
  | .fired => (appendFired d.body d.time s, false)
  | .idle => (s, false)
  | .captured => (s, false)
  | .stopped => (s, false)

/-! ### The fire and the count -/

/-- A fire, taken whole (R73): marker, state, guards, sequencer, events, and the exhaustion of a marker that takes the last
number (R47). -/
def fire (cause : Cause) (s : State) : State :=
  let s0 := pushRec false (.trigger cause) s.time.counter s
  let s1 : State :=
    { s0 with
      session := { s0.session with
        state := if s0.session.q = 0 then .captured else .fired, post := 0, guardsInForce := true }
      seqr := { s0.seqr with state := .done, elapsed := 0 } }
  let s2 := raiseIf (s0.session.q == 0) .captured (raise .fired s1)
  if s.ring.nextSeq = lastSeq then
    if s2.session.state = .fired then exhaust s2 else raise .seqExhausted s2
  else s2

/-- The hit set holds the window of the current stage, or, for ANY, is not empty (R89). -/
def State.stageHit (s : State) (hits : Set16) : Bool :=
  match (s.stageAt s.seqr.stage).window with
  | none => hits != 0
  | some w => hits.getLsbD w.toNat

/-- The write counts toward the current stage (R89). -/
def State.counts (s : State) (hits : Set16) : Bool :=
  s.session.state == .armed && s.seqr.state == .counting && s.stageHit hits

/-- The sequencer takes the count (R90). -/
def takeCount (s : State) : State :=
  if s.seqr.count + 1 < (s.stageAt s.seqr.stage).target then
    { s with seqr := { s.seqr with count := s.seqr.count + 1 } }
  else if s.seqr.stage + 1 < s.seqr.length then
    { s with seqr := { s.seqr with stage := s.seqr.stage + 1, count := 0, elapsed := 0 } }
  else fire (.sequence s.seqr.stage) { s with seqr := { s.seqr with count := s.seqr.count + 1 } }

/-- Step 5 of a resolution: the count decided in step 3 is taken, unless an exhaustion has idled the sequencer (R29, R88). -/
def countStep (counts : Bool) (s : State) : State :=
  if counts && s.seqr.state == .counting then takeCount s else s

/-! ### Resolution -/

/-- The fields of a record made from a held write (R30, R31, R44). -/
def recordInfo (w : HeldWrite) (windows : Set16) (old : Option (List Byte)) : WriteInfo :=
  { addr := w.req.addr, len := w.req.len, source := w.req.source, tag := w.req.tag, windows := windows,
    oldData := old.map fun l => (l.drop (lineOffset w.req.addr)).take w.req.len, newData := w.req.data }

/-- The entry goes to SLOT_WAIT and joins the end of the ring-slot arbiter's list (R32, R53, R54). -/
def waitForSlot (i : Nat) (line : Addr) (w : HeldWrite) (old : Option (List Byte)) (d : Draft) (parked : List Parked)
    (s : State) : State :=
  { s.setEntry i (.owned line (.slotWait w old d) parked) with ring := { s.ring with slotList := s.ring.slotList ++ [i] } }

/-- The finish of a write that goes ahead: it is queued and its entry released (R29, step 6, R33). -/
def finishAhead (i : Nat) (w : HeldWrite) (s : State) : State := release i (enqueue w.req.item s)

/-- The resolution of a refused write (R29, R30). -/
def resolveRefused (i : Nat) (w : HeldWrite) (old : Option (List Byte)) (hits : Set16) (s : State) : State :=
  let s1 := raise .refusal s
  let s2 := if s.recording && s.recordSet hits != 0 then appendRefused (recordInfo w hits old) s1 else s1
  release i (respond w.req.tag .refused [] (countStep (s.counts hits) s2))

/-- The resolution of a write that goes ahead (R29, R31). -/
def resolveAhead (i : Nat) (line : Addr) (w : HeldWrite) (old : Option (List Byte)) (parked : List Parked) (hits : Set16)
    (s : State) : State :=
  let quiet := s.counts hits && (s.stageAt s.seqr.stage).quiet
  if s.recording && s.recordSet hits != 0 && !quiet then
    let d : Draft := { time := s.time.counter, info := recordInfo w (s.recordSet hits) old }
    match appendWrite d s with
    | (s1, true) => waitForSlot i line w old d parked s1
    | (s1, false) => finishAhead i w (countStep (s.counts hits) s1)
  else finishAhead i w (countStep (s.counts hits) s)

/-- The resolution of the write that entry `i` holds, with the old line or its absence (R29). -/
def resolve (i : Nat) (line : Addr) (w : HeldWrite) (old : Option (List Byte)) (parked : List Parked) (s : State) : State :=
  let hits := s.hitSet w old
  if s.refuses hits then resolveRefused i w old hits s else resolveAhead i line w old parked hits s

end Sys2Proof.Machine
end

