-- ==== Sys2Proof/Machine/RollbackOps.lean ====
section
/-! DEFINITION. The rollback engine's walk, its claims, its compare and its ends (06_rollback.md). -/

namespace Sys2Proof.Machine

/-- The record can be undone, and these are its fields: a WRITE record with outcome OK, restored no and old data present
(R102). -/
def Rec.undoable (r : Rec) : Option WriteInfo :=
  match r.body with
  | .write w .ok false => if w.oldData.isSome then some w else none
  | _ => none

/-- The rollback ends: the engine reaches IDLE with a result and ROLLBACK_DONE is raised (R99). -/
def endRollback (result : RbResult) (s : State) : State :=
  raise .rollbackDone { s with rollback := { s.rollback with state := .idle, result := result, pendingResult := none } }

/-- The engine claims a line (R36, R104): it parks behind the line's owner, or takes the lowest FREE entry, or waits on the
free-entry arbiter. A FORCE step queues its restore and never leaves the entry owned. -/
def claimLine (line : Addr) (s : State) : State :=
  let waits : State := { s with rollback := { s.rollback with state := .claiming } }
  match s.ownerOf line with
  | some i => park i (.claim { line := line, mode := s.rollback.mode }) waits
  | none =>
    match s.freeEntry with
    | some i =>
      match s.rollback.mode with
      | .force => queueRestore s
      | .checkSkip => holdForCheck i line [] s
      | .checkStop => holdForCheck i line [] s
    | none => setArbiter (s.hold.arbiter ++ [.rollback { line := line, mode := s.rollback.mode }]) waits

/-- The visit of the record at the cursor, and of the older ones while they are skipped; `n` records of the run are older
(R102, R103). -/
def visit (n : Nat) (s : State) : State :=
  match (s.ring.find s.rollback.cursor).bind Rec.undoable with
  | some w => claimLine (lineOf w.addr) s
  | none =>
    let s1 : State := { s with rollback := { s.rollback with skipped := s.rollback.skipped + 1 } }
    match n with
    | 0 => endRollback .done s1
    | m + 1 => visit m { s1 with rollback := { s1.rollback with cursor := s1.rollback.cursor - 1 } }

/-- The engine has finished with the record at the cursor and advances (R103). -/
def advance (s : State) : State :=
  if s.rollback.cursor ≤ s.rollback.first then endRollback .done s
  else visit (s.rollback.cursor - 1 - s.rollback.first)
    { s with rollback := { s.rollback with cursor := s.rollback.cursor - 1 } }

/-- The rollback fault of a check read or a restore is offered to the fault record (R107, R109). -/
def rollbackFault (addr : Addr) (s : State) : State := offerFault .rollbackFault .memory 72 (some addr) s

/-- The bytes of a line at the span of a record are the record's new data (R106). -/
def spanEqual (line : List Byte) (w : WriteInfo) : Bool :=
  (line.drop (lineOffset w.addr)).take w.len == w.newData

/-- The fields of the WRITE record at the cursor. -/
def State.cursorInfo (s : State) : Option WriteInfo :=
  (s.ring.find s.rollback.cursor).bind fun r =>
    match r.body with
    | .write w _ _ => some w
    | .refused _ => none
    | .gap _ => none
    | .trigger _ => none

/-- The compare found the span unequal (R106). -/
def conflict (s : State) : State :=
  let s1 := releaseChecking { s with rollback := { s.rollback with conflicts := s.rollback.conflicts + 1 } }
  match s1.rollback.mode with
  | .force => advance s1
  | .checkSkip => advance s1
  | .checkStop => endRollback .conflict s1

/-- The result of an ABORTING engine (R98, R111). -/
def RbPending.result : RbPending → RbResult
  | .aborted => .aborted
  | .cleared => .cleared

/-- An ABORTING engine has had its response (R111). -/
def endAborting (s : State) : State := endRollback ((s.rollback.pendingResult.getD .aborted).result) s

/-- The check read has responded (R106, R107, R111). -/
def checkResponded (addr : Addr) (status : MemStatus) (line : List Byte) (s : State) : State :=
  match s.rollback.state with
  | .checking =>
    match status with
    | .ok =>
      if s.cursorInfo.any (spanEqual line) then releaseChecking (queueRestore s) else conflict s
    | .fault => rollbackFault addr (endRollback .fault (releaseChecking s))
  | .aborting => endAborting s
  | .idle => s
  | .claiming => s
  | .restoring => s

/-- The record takes restored yes (R43, R108). -/
def Rec.setRestored (r : Rec) : Rec :=
  match r.body with
  | .write w outcome _ => { r with body := .write w outcome true }
  | .refused _ => r
  | .gap _ => r
  | .trigger _ => r

/-- The restored flag of the record at the cursor is set, if it is in the ring, and the restore is counted (R108, R111). -/
def markRestored (s : State) : State :=
  { s with
    ring := { s.ring with recs := s.ring.recs.map fun r => if r.seq = s.rollback.cursor then r.setRestored else r }
    rollback := { s.rollback with restored := s.rollback.restored + 1 } }

/-- The restore write has responded (R108, R109, R111). -/
def restoreResponded (addr : Addr) (status : MemStatus) (s : State) : State :=
  match s.rollback.state with
  | .restoring =>
    match status with
    | .ok => advance (markRestored s)
    | .fault => rollbackFault addr (endRollback .fault s)
  | .aborting =>
    match status with
    | .ok => endAborting (markRestored s)
    | .fault => endAborting (rollbackFault addr s)
  | .idle => s
  | .claiming => s
  | .checking => s

/-- A rollback in progress is ended by ROLLBACK_ABORT or a clear, phase by phase (R110, R113). A clear changes the pending
result of an ABORTING engine, an abort keeps it. -/
def endEarly (why : RbPending) (s : State) : State :=
  match s.rollback.state with
  | .idle => s
  | .claiming => endRollback why.result (withdrawClaim s)
  | .checking => releaseChecking { s with rollback := { s.rollback with state := .aborting, pendingResult := some why } }
  | .restoring => { s with rollback := { s.rollback with state := .aborting, pendingResult := some why } }
  | .aborting =>
    match why with
    | .aborted => s
    | .cleared => { s with rollback := { s.rollback with pendingResult := some .cleared } }

end Sys2Proof.Machine
end

