-- ==== Sys2Proof/Machine/DrainOps.lean ====
section
/-! DEFINITION. The drain's placement, offers, responses and retirement (7.3 to 7.7), and the issue arbiter that grants
memory credits to it and to the path issue queue (8.6). -/

namespace Sys2Proof.Machine

/-! ### Placement -/

/-- How many line writes an item has: a PAD's second line is not written (R120). -/
def DrainItem.writes (it : DrainItem) : Nat := if it.seq.isNone then 1 else it.lines

/-- The item of a record placed at a line (R117, R120, R121). -/
def recordItem (first : Nat) (r : Rec) : DrainItem :=
  { first := first, lines := r.lineCount, seq := some r.seq, bytes := r.spillRun, issued := 0, okCount := 0, faulted := false }

/-- The item of a PAD of `n` lines (R120). -/
def padItem (first n : Nat) : DrainItem :=
  { first := first, lines := n, seq := none, bytes := padRun n, issued := 0, okCount := 0, faulted := false }

/-- The lines of the items in the in-flight list (R117). -/
def Drain.flightLines (d : Drain) : Nat := (d.inFlight.map DrainItem.lines).sum

/-- The free lines of the spill area (R121). -/
def Drain.freeLines (d : Drain) : Nat := d.size - d.u - d.flightLines

/-- The record is placed where there is room for it, with a PAD before it where it does not fit before the wrap (R121). -/
def Drain.place (d : Drain) (r : Rec) : Drain :=
  if r.lineCount ≤ d.size - d.q then
    if r.lineCount ≤ d.freeLines then
      { d with inFlight := d.inFlight ++ [recordItem d.q r], q := (d.q + r.lineCount) % d.size }
    else d
  else if d.size - d.q + r.lineCount ≤ d.freeLines then
    { d with inFlight := d.inFlight ++ [padItem d.q (d.size - d.q), recordItem 0 r], q := r.lineCount }
  else d

/-- The record's outcome is not known yet (R121). -/
def Rec.isPending (r : Rec) : Bool :=
  match r.body with
  | .write _ .pending _ => true
  | _ => false

/-- The next record to place: the one after the newest of the in-flight list, or the oldest of the ring (R121). -/
def State.nextRecord (s : State) : Option Rec :=
  match s.drain.inFlight.getLast? with
  | none => s.ring.recs.head?
  | some it => it.seq.bind fun q => s.ring.find (q + 1)

/-- The item whose next line is to be offered: the first with a line not issued (R122). -/
def Drain.unissued (d : Drain) : Option DrainItem := d.inFlight.find? fun it => decide (it.issued < it.writes)

/-- The next line write of an item (R122, R173). -/
def Drain.lineOffer (d : Drain) (it : DrainItem) : OfferedLine :=
  { item := it.first
    addr := d.base + BitVec.ofNat 40 (64 * ((it.first + it.issued) % d.size))
    data := (it.bytes.drop (64 * it.issued)).take 64 }

/-- The drain after placement, where every line of every item has been issued and the next record can be placed (R121). -/
def State.drainPlaced (s : State) : Drain :=
  if s.drain.unissued.isSome then s.drain
  else
    match s.nextRecord with
    | some r => if r.isPending then s.drain else s.drain.place r
    | none => s.drain

/-- The drain offers its next line, placing a record first where it can (R121, R122). -/
def offerNext (s : State) : State :=
  if s.drain.state = .running ∧ s.drain.offered = none ∧ s.drainTags.length < 4 then
    { s with drain := { s.drainPlaced with offered := s.drainPlaced.unissued.map s.drainPlaced.lineOffer } }
  else s

/-! ### The issue arbiter -/

/-- The requester to be granted (R145): the one that is ready, or of two the one not granted last. -/
def State.grantee (s : State) : Option Requester :=
  match s.mem.queue.isEmpty, s.drain.offered.isNone with
  | true, true => none
  | false, true => some .path
  | true, false => some .drain
  | false, false =>
    match s.mem.lastGrant with
    | .path => some .drain
    | .drain => some .path

/-- A request is issued on the memory link, its tag becomes outstanding, and the record of the last grant is set (R145). -/
def issue (m : MemReq) (item : Option Nat) (who : Requester) (s : State) : State :=
  { s with mem := { s.mem with
      outstanding := s.mem.outstanding ++ [{ req := m, item := item }], sent := s.mem.sent ++ [m], lastGrant := who } }

/-- The head of the path issue queue is granted (R144, R145). -/
def grantPath (s : State) : State :=
  match s.mem.queue with
  | [] => s
  | m :: rest => issue m none .path { s with mem := { s.mem with queue := rest } }

/-- The lowest-numbered drain tag that is not outstanding (R122). -/
def State.freeDrainTag (s : State) : Option MemTag := ([73, 74, 75, 76] : List MemTag).find? fun t => !s.drainTags.contains t

/-- A change of the in-flight item whose first line is `item`. -/
def mapItem (item : Nat) (g : DrainItem → DrainItem) (s : State) : State :=
  { s with drain := { s.drain with inFlight := s.drain.inFlight.map fun it => if it.first = item then g it else it } }

/-- The drain's offered line is granted (R122). -/
def grantDrain (s : State) : State :=
  match s.drain.offered, s.freeDrainTag with
  | some o, some t =>
    offerNext (mapItem o.item (fun it => { it with issued := it.issued + 1 })
      (issue { kind := .write, tag := t, addr := o.addr, len := 64, data := o.data } (some o.item) .drain
        { s with drain := { s.drain with offered := none } }))
  | _, _ => s

/-- Grants are made while a credit is free, at most `n`, and a requester is ready (R145). -/
def grants : Nat → State → State
  | 0, s => s
  | n + 1, s =>
    match s.grantee with
    | none => s
    | some .path => grants n (grantPath s)
    | some .drain => grants n (grantDrain s)

/-- The end of an event: the drain places and offers what it can, then the issue arbiter makes the grants (R121, R145,
R146). -/
def settle (s : State) : State :=
  let s1 := offerNext s
  grants (s1.mem.credit - s1.mem.outstanding.length) s1

/-! ### Responses and retirement -/

/-- The last outstanding write has been answered: a STOPPING drain takes its end state, a FAULTING one is FAULTED (R129,
R131, R132, R133). -/
def drainQuiesce (s : State) : State :=
  if s.drainTags = [] then
    match s.drain.state with
    | .stopping =>
      if s.drain.endState = some .off then drainOff s else { s with drain := { s.drain.emptied with state := .ready } }
    | .faulting => { s with drain := { s.drain.emptied with state := .faulted } }
    | .off => s
    | .ready => s
    | .running => s
    | .faulted => s
  else s

/-- Complete items retire from the front of the in-flight list (R124). -/
def retire : List DrainItem → State → State
  | [], s => s
  | it :: rest, s =>
    if it.writes ≤ it.okCount ∧ it.faulted = false then
      retire rest
        { s with
          ring := { s.ring with recs := if it.seq.isSome then s.ring.recs.tail else s.ring.recs }
          drain := { s.drain with
            inFlight := rest, p := (s.drain.p + it.lines) % s.drain.size, u := s.drain.u + it.lines } }
    else s

/-- Retirement within an event: items retire, SPILL_WATERMARK is raised where u has increased and ends at or above the
watermark, and the freed slots go to the ring-slot arbiter (R54, R124, R125). -/
def retireAll (s : State) : State :=
  let s1 := retire s.drain.inFlight s
  serveSlots (raiseIf (decide (s.drain.u < s1.drain.u) && decide (s1.drain.watermark ≤ s1.drain.u)) .spillWatermark s1)

/-- A drain line write has been answered; its tag is no longer outstanding (R123, R128, R129, R132). -/
def drainResponded (o : Outstanding) (status : MemStatus) (s : State) : State :=
  match status with
  | .ok =>
    if s.drain.stopCause = some .clear then drainQuiesce s
    else drainQuiesce (retireAll (mapItem (o.item.getD s.drain.size) (fun it => { it with okCount := it.okCount + 1 }) s))
  | .fault =>
    let s1 := offerFault .drainFault .memory o.req.tag (some o.req.addr) (raise .drainFault s)
    if s1.drain.stopCause = some .clear then drainQuiesce s1
    else
      let s2 := mapItem (o.item.getD s.drain.size) (fun it => { it with faulted := true }) s1
      drainQuiesce { s2 with drain := { s2.drain with
        state := .faulting, offered := none, stopCause := none, endState := none } }

end Sys2Proof.Machine
end

