-- ==== Sys2Proof/Machine/Port.lean ====
section
/-! DEFINITION. The management port: what a frame shifts out, and what its end does (10.2, 10.3); and the four general
commands with the frames that carry none (10.3, 10.4). -/

namespace Sys2Proof.Machine

/-- What a command answers: the state it leaves, its outcome, and its result bytes (R165). -/
structure Reply where
  state : State
  outcome : PortOutcome
  result : List Byte
deriving DecidableEq, Repr

/-- Outcome OK without a result. -/
def done (s : State) : Reply := { state := s, outcome := .ok, result := [] }

/-- Outcome OK with a result. -/
def shows (result : List Byte) (s : State) : Reply := { state := s, outcome := .ok, result := result }

/-- A refusal: the outcome, and no change of state (R166). -/
def refuses (outcome : PortOutcome) (s : State) : Reply := { state := s, outcome := outcome, result := [] }

/-- Byte `i` of what the port shifts out: the held outcome code, the held result, then zeros (R164). -/
def Port.misoByte (p : Port) (i : Nat) : Byte := (p.heldOutcome.code :: p.heldResult).getD i 0

/-- What MISO carries in a frame of `n` complete bytes and `k` further bits (R164). -/
def Port.shiftOut (p : Port) (n k : Nat) : Shifted :=
  { bytes := (List.range n).map p.misoByte, bits := (msbBits (p.misoByte n)).take k }

/-! ### The edges of a frame -/

/-- The rising edge of CS_N (R163): it ends the frame in progress, with the bits of an incomplete byte discarded, and ends
nothing where none is. What MISO carried while CS_N was low without a frame is not recorded: R164 gives it no value (DESIGN
CHOICE, log entry 28). -/
def Port.rise (p : Port) : Port :=
  { p with
    inFrame := false, rx := Receiver.empty, awaitRise := false
    shifted := if p.inFrame then p.shiftOut p.rx.received.length p.rx.bitCount else p.shifted }

/-- The falling edge of CS_N (R163): taken while IDLE it begins a frame, unless CS_N has been low since the release of RESET_N
and its rise is still awaited. -/
def Port.fall (p : Port) : Port :=
  if p.inFrame || p.awaitRise then p else { p with inFrame := true, rx := Receiver.empty }

/-- A rising edge of SCLK with a level of MOSI (R163): sampled while IN_FRAME, ignored otherwise. -/
def Port.clock (p : Port) (mosi : Bool) : Port := if p.inFrame then { p with rx := p.rx.sample mosi } else p

/-- The port at the end of a frame, just before the rise of CS_N that ends it: CS_N has been high, has fallen, and SCLK has
risen once for each sample (R163; log entries 11 and 22). -/
def Port.during (p : Port) (mosi : List Bool) : Port := mosi.foldl Port.clock p.rise.fall

/-- The held outcome and result are replaced together; a result is held only with OK (R162, R165). -/
def Port.answer (p : Port) (outcome : PortOutcome) (result : List Byte) : Port :=
  { p with heldOutcome := outcome, heldResult := if outcome = .ok then result else [] }

/-- A frame whose first byte is a code ends (R165): the bytes the port has received after that one are the argument bytes.
With fewer than `argc` of them the outcome is SHORT, and otherwise the command runs on them and its answer is held. While
RESET_N is asserted the port ignores its pins (R162). -/
def portFrame (code : Byte) (argc : Nat) (run : List Byte → State → Reply) (f : Frame) (s : State) : State :=
  if s.resetHeld then s
  else
    let p := s.port.during (msbBits code ++ f.bits)
    let s1 : State := { s with port := p.rise }
    match p.rx.received with
    | [] => s1
    | _ :: args =>
      if args.length < argc then { s1 with port := s1.port.answer .short [] }
      else
        let r := run args s1
        { r.state with port := r.state.port.answer r.outcome r.result }

/-! ### Frames without a command -/

/-- EMPTY_FRAME: nothing is executed, and the held outcome and result are kept (R165, case 1). -/
def execEmptyFrame (count : Fin 8) (s : State) : Host.Outcome State Fault Refusal :=
  .next (if s.resetHeld then s
    else { s with port := (s.port.during (List.replicate count.val false)).rise })

/-- UNKNOWN_COMMAND: the held outcome becomes UNKNOWN, and nothing is executed (R165, case 2). -/
def execUnknownCommand (code : Byte) (f : Frame) (s : State) : Host.Outcome State Fault Refusal :=
  .next (portFrame code 0 (fun _ => refuses .unknown) f s)

/-! ### NOP, IDENT, STATUS -/

/-- NOP (R167). -/
def execNop (f : Frame) (s : State) : Host.Outcome State Fault Refusal := .next (portFrame 0x00 0 (fun _ => done) f s)

/-- The result of IDENT: part code 0x5A17 and revision 1 (R167, 11.4). -/
def identBytes : List Byte := [0x5A, 0x17, 0x01]

/-- IDENT (R167). -/
def execIdent (f : Frame) (s : State) : Host.Outcome State Fault Refusal := .next (portFrame 0x01 0 (fun _ => shows identBytes) f s)

/-- The number of hold entries that are not FREE (R168). -/
def State.holdInUse (s : State) : Nat := (s.hold.entries.toList.filter fun e => !e.isFree).length

/-- The result of STATUS (R168, 11.4). -/
def State.statusBytes (s : State) : List Byte :=
  beBytes 1 (yesNo s.engaged) ++ beBytes 1 s.session.state.code ++ beBytes 1 (stopReasonCode s.session.stopReason) ++
  beBytes 1 s.seqr.state.code ++ beBytes 1 s.seqr.stage ++ beBytes 2 s.seqr.count ++ beBytes 2 s.ring.recs.length ++
  beBytes 4 s.ring.gap ++ beBytes 1 s.drain.state.code ++ beBytes 1 s.rollback.state.code ++ beBytes 1 s.holdInUse ++
  beBytes 2 s.events.pending.toNat ++ beBytes 1 s.mem.credit

/-- STATUS (R168). -/
def execStatus (f : Frame) (s : State) : Host.Outcome State Fault Refusal :=
  .next (portFrame 0x02 0 (fun _ t => shows t.statusBytes t) f s)

/-! ### CLEAR -/

/-- The ring of a clear of the session: no record, no pair, gap counter and next_seq 0 (R63). -/
def Ring.cleared (r : Ring) : Ring := { r with recs := [], outcomeMap := [], gap := 0, nextSeq := 0 }

/-- What CLEAR SESSION and CLEAR ALL do to the blocks that hold session work, in the order of R63 and R79, given how the
clear reaches the drain (R132, R133). -/
def clearSessionWork (drainClear : State → State) (s : State) : State :=
  let s1 := releaseSlots false s.ring.slotList s
  let s2 := seqIdle { s1 with ring := s1.ring.cleared, session := Session.reset }
  drainClear (endEarly .cleared s2)

/-- CLEAR of each scope (R169). Under ALL the event sets are emptied before the clear's own ROLLBACK_DONE is raised (R113,
R161). -/
def clearScope : ClearScope → State → State
  | .session, s => settle (clearSessionWork drainClearSession s)
  | .windows, s => { s with windows := Vector.replicate 16 Window.reset }
  | .events, s => { s with events := Events.reset }
  | .all, s =>
    settle (clearSessionWork drainClearAll
      { s with
        windows := Vector.replicate 16 Window.reset
        events := Events.reset
        time := TimeBase.reset
        engaged := false
        ring := { s.ring with policy := .skip, threshold := 256 }
        seqr := { s.seqr with stages := Vector.replicate 8 Stage.reset, length := 1 } })

/-- CLEAR: the scope decides what it acts on, and a scope code that is not assigned is BAD_ARG (R169, R171). -/
def runClear (args : List Byte) (s : State) : Reply :=
  match clearScopeOf (argField args 0 1) with
  | some scope => done (clearScope scope s)
  | none => refuses .badArg s

/-- CLEAR SESSION (R79, R169). -/
def execClearSession (f : Frame) (s : State) : Host.Outcome State Fault Refusal := .next (portFrame 0x03 1 runClear f s)

/-- CLEAR WINDOWS (R18, R169). -/
def execClearWindows (f : Frame) (s : State) : Host.Outcome State Fault Refusal := .next (portFrame 0x03 1 runClear f s)

/-- CLEAR EVENTS (R161, R169). -/
def execClearEvents (f : Frame) (s : State) : Host.Outcome State Fault Refusal := .next (portFrame 0x03 1 runClear f s)

/-- CLEAR ALL (R80, R169). -/
def execClearAll (f : Frame) (s : State) : Host.Outcome State Fault Refusal := .next (portFrame 0x03 1 runClear f s)

end Sys2Proof.Machine
end

