-- ==== Sys2Proof/Machine/Engines.lean ====
section
/-! DEFINITION. The drain and rollback commands (06_rollback.md, 07_the_spill_drain.md). -/

namespace Sys2Proof.Machine

/-! ### Drain -/

/-- The state a configured drain takes outside a stop or fault: RUNNING in a RUNNING session, else READY (R119, R130). -/
def State.drainLive (s : State) : DrainState := if s.session.state = .running then .running else .ready

/-- The arguments of SPILL_SET are out of range (R119, check 1). -/
def spillArgBad (base size watermark : Nat) : Bool :=
  size != 0 &&
    (decide (size < 64) || decide (262144 < size) || base % 64 != 0 || watermark == 0 || decide (size < watermark) ||
      decide (2 ^ 40 ≤ base + 64 * size - 1))

/-- An accepted SPILL_SET (R119). -/
def spillSet (base size watermark : Nat) (s : State) : State :=
  if size = 0 then drainOff s
  else
    settle { s with drain := { Drain.reset with
      state := s.drainLive, base := BitVec.ofNat 40 base, size := size, watermark := watermark } }

/-- SPILL_SET's checks and effect (R119). -/
def runSpillSet (args : List Byte) (s : State) : Reply :=
  if spillArgBad (argField args 0 5) (argField args 5 3) (argField args 8 3) then refuses .badArg s
  else if s.drain.state = .faulted then refuses .badState s
  else if s.drain.state = .running ∨ s.drain.state = .stopping ∨ s.drain.state = .faulting then refuses .busy s
  else done (spillSet (argField args 0 5) (argField args 5 3) (argField args 8 3) s)

/-- SPILL_SET (R119). -/
def execSpillSet (f : Frame) (s : State) : Host.Outcome State Fault Refusal := .next (portFrame 0x30 11 runSpillSet f s)

/-- The result of SPILL_STATUS (R127, 11.4). -/
def Drain.statusBytes (d : Drain) : List Byte :=
  beBytes 1 d.state.code ++ beBytes 3 d.p ++ beBytes 3 d.c ++ beBytes 3 d.u ++ beBytes 3 d.size ++ beBytes 3 d.watermark

/-- SPILL_STATUS (R127). -/
def execSpillStatus (f : Frame) (s : State) : Host.Outcome State Fault Refusal :=
  .next (portFrame 0x31 0 (fun _ t => shows t.drain.statusBytes t) f s)

/-- The lines from c to newc in the direction of the wrap (R126). -/
def Drain.consumeDistance (d : Drain) (newc : Nat) : Nat := (newc + d.size - d.c) % d.size

/-- SPILL_CONSUME's check and effect (R126). -/
def runSpillConsume (args : List Byte) (s : State) : Reply :=
  let newc := argField args 0 3
  if s.drain.size ≤ newc ∨ s.drain.u < s.drain.consumeDistance newc then refuses .badArg s
  else done (settle { s with drain := { s.drain with c := newc, u := s.drain.u - s.drain.consumeDistance newc } })

/-- SPILL_CONSUME (R126). -/
def execSpillConsume (f : Frame) (s : State) : Host.Outcome State Fault Refusal := .next (portFrame 0x32 3 runSpillConsume f s)

/-- DRAIN_RESTART's checks and effect (R130). -/
def runDrainRestart (s : State) : Reply :=
  match s.drain.state with
  | .faulted => done (settle { s with drain := { s.drain with state := s.drainLive, q := s.drain.p } })
  | .faulting => refuses .busy s
  | .off => refuses .badState s
  | .ready => refuses .badState s
  | .running => refuses .badState s
  | .stopping => refuses .badState s

/-- DRAIN_RESTART (R130). -/
def execDrainRestart (f : Frame) (s : State) : Host.Outcome State Fault Refusal := .next (portFrame 0x33 0 (fun _ => runDrainRestart) f s)

/-! ### Rollback -/

/-- An accepted ROLLBACK_START (R101). -/
def startRollback (mode : RbMode) (first last : Nat) (s : State) : State :=
  settle (visit (last - first)
    { s with rollback := { s.rollback with
        mode := mode, first := first, cursor := last, result := .none, pendingResult := none, restored := 0, conflicts := 0
        skipped := 0 } })

/-- ROLLBACK_START's checks and effect (R100, R101). -/
def runRollbackStart (args : List Byte) (s : State) : Reply :=
  let first := argField args 0 4
  let last := argField args 4 4
  match rbModeOf (argField args 8 1) with
  | none => refuses .badArg s
  | some mode =>
    if last < first then refuses .badArg s
    else if s.session.state ≠ .stopped ∧ s.session.state ≠ .captured then refuses .badState s
    else if s.rollback.state ≠ .idle ∨ s.drain.state = .stopping ∨ s.drain.state = .faulting then refuses .busy s
    else if (s.ring.find first).isNone ∨ (s.ring.find last).isNone then refuses .notFound s
    else done (startRollback mode first last s)

/-- ROLLBACK_START (R100, R101). -/
def execRollbackStart (f : Frame) (s : State) : Host.Outcome State Fault Refusal :=
  .next (portFrame 0x38 9 runRollbackStart f s)

/-- ROLLBACK_ABORT's check and effect (R110). -/
def runRollbackAbort (s : State) : Reply :=
  if s.rollback.state = .idle then refuses .badState s else done (settle (endEarly .aborted s))

/-- ROLLBACK_ABORT (R110). -/
def execRollbackAbort (f : Frame) (s : State) : Host.Outcome State Fault Refusal := .next (portFrame 0x39 0 (fun _ => runRollbackAbort) f s)

/-- The result of ROLLBACK_STATUS (R114, 11.4). -/
def Rollback.statusBytes (r : Rollback) : List Byte :=
  beBytes 1 r.state.code ++ beBytes 1 r.result.code ++ beBytes 4 r.cursor ++ beBytes 2 r.restored ++ beBytes 2 r.conflicts ++
  beBytes 2 r.skipped

/-- ROLLBACK_STATUS (R114). -/
def execRollbackStatus (f : Frame) (s : State) : Host.Outcome State Fault Refusal :=
  .next (portFrame 0x3A 0 (fun _ t => shows t.rollback.statusBytes t) f s)

end Sys2Proof.Machine
end

