-- ==== Sys2Proof/Machine/Links.lean ====
section
/-! DEFINITION. The pins and the two links: resets, host requests, classification, the credit messages, and the routing of
memory responses (2.2, 08_the_memory_path.md). -/

namespace Sys2Proof.Machine

/-! ### Pin reset -/

/-- PIN_RESET: RESET_N is asserted, and every block takes its reset value (R151, and the reset rules of every block). The
commands that wait outside the part and the free-value counter, which are the model's own, are kept. -/
def execPinReset (s : State) : Host.Outcome State Fault Refusal :=
  .next { State.reset with pending := s.pending, freeCount := s.freeCount, resetHeld := true }

/-- RESET_N_RELEASE: the links may restart, the first tick begins with all its counts at 0, and the port waits for a falling
edge of CS_N, first for a rise where CS_N is low at the release (R152, R163). -/
def execResetNRelease (csLow : Bool) (s : State) : Host.Outcome State Fault Refusal :=
  .next (if s.resetHeld then
      { s with
        resetHeld := false
        time := { s.time with tickPrescale := s.time.prescale, periods := 0 }
        port := { s.port with inFrame := false, rx := Receiver.empty, awaitRise := csLow } }
    else s)

/-- HOST_CREDIT_OFFER: the host link starts, and the part offers its 16 credits, once after each restart (R136, R151). -/
def execHostCreditOffer (s : State) : Host.Outcome State Fault Refusal :=
  .next (if s.resetHeld || s.host.started then s
    else { s with host := { s.host with started := true, sent := s.host.sent ++ [.creditOffer 16] } })

/-! ### The host link -/

/-- A request arrives on the host link (R137): with no credit it is discarded; with its tag in use it is discarded and its
credit returned bare; otherwise it is accepted. While RESET_N is asserted it is not received (R151). -/
def arrive (r : HostReq) (s : State) : State :=
  if s.host.credit = 0 then violation r s
  else if s.host.inPart.contains r.tag then
    violation r { s with host := { s.host with sent := s.host.sent ++ [.creditReturn] } }
  else
    { s with
      host := { s.host with credit := s.host.credit - 1, inPart := s.host.inPart ++ [r.tag] }
      ingress := { s.ingress with queue := s.ingress.queue ++ [r] } }

/-- READ_REQ (R137). -/
def execReadReq (tag : HostTag) (source : Source) (addr : Addr) (len : Nat) (s : State) :
    Host.Outcome State Fault Refusal :=
  .next (if s.resetHeld then s
    else arrive { kind := .read, tag := tag, source := source, addr := addr, len := len, data := [] } s)

/-- WRITE_REQ (R137). -/
def execWriteReq (tag : HostTag) (source : Source) (addr : Addr) (len : Nat) (data : List Byte) (s : State) :
    Host.Outcome State Fault Refusal :=
  .next (if s.resetHeld then s
    else
      arrive
        { kind := .write, tag := tag, source := source, addr := addr, len := len, data := linkData len data s.freeCount }
        (useFree len data s))

/-! ### Classification -/

/-- The request at the ingress head is classified by the first case of R22 that applies. -/
def classifyHead (r : HostReq) (s : State) : State :=
  if malformed r then respond r.tag .malformed [] (violation r (popHead s))
  else
    match s.ownerOf (lineOf r.addr) with
    | some i => park i (.host r (s.candidates r)) (popHead s)
    | none =>
      if s.candidates r = 0 then enqueue r.item (popHead s)
      else
        match s.freeEntry with
        | some i => takeEntry i { req := r, cands := s.candidates r } (popHead s)
        | none =>
          { setArbiter (s.hold.arbiter ++ [.head]) s with ingress := { s.ingress with waiting := some (s.candidates r) } }

/-- CLASSIFICATION: the classifier takes the head, unless none is there or it waits for an entry (R22, R24). While RESET_N
is asserted the queue is empty and nothing is classified (R151, log entry 4). -/
def execClassification (s : State) : Host.Outcome State Fault Refusal :=
  .next (if s.resetHeld then s
    else
      match s.ingress.queue, s.ingress.waiting with
      | [], _ => s
      | _ :: _, some _ => s
      | r :: _, none => settle (classifyHead r s))

/-! ### The memory link -/

/-- CREDIT_ANNOUNCEMENT: the first nonzero announcement after a link start sets C, at most 32 (R141). -/
def execCreditAnnouncement (count : Nat) (s : State) : Host.Outcome State Fault Refusal :=
  .next (if s.resetHeld || s.mem.credit != 0 || count == 0 then s
    else settle { s with mem := { s.mem with credit := min count 32 } })

/-- The outcome a memory status gives a record (R49). -/
def outcomeOf : MemStatus → RecOutcome
  | .ok => .ok
  | .fault => .fault

/-- The status a memory status gives a host response (R147). -/
def hostStatusOf : MemStatus → HostStatus
  | .ok => .ok
  | .fault => .fault

/-- A WRITE record takes its outcome (R49). -/
def Rec.setOutcome (r : Rec) (o : RecOutcome) : Rec :=
  match r.body with
  | .write w _ restored => { r with body := .write w o restored }
  | .refused _ => r
  | .gap _ => r
  | .trigger _ => r

/-- The outcome map is consulted for a host write's tag: the record it names takes the outcome, if it is still in the ring,
and the pair is removed (R49). -/
def setOutcome (tag : HostTag) (o : RecOutcome) (s : State) : State :=
  match s.ring.outcomeMap.find? fun x => x.1 == tag with
  | none => s
  | some pair =>
    { s with ring := { s.ring with
        recs := s.ring.recs.map fun r => if r.seq = pair.2 then r.setOutcome o else r
        outcomeMap := s.ring.outcomeMap.filter fun x => x.1 != tag } }

/-- The memory response to a forwarded host request (R147). -/
def hostResponded (m : MemReq) (status : MemStatus) (data : List Byte) (s : State) : State :=
  match m.kind with
  | .read =>
    match status with
    | .ok => respond (m.tag.setWidth 6) .ok data s
    | .fault => respond (m.tag.setWidth 6) .fault [] s
  | .write => respond (m.tag.setWidth 6) (hostStatusOf status) [] (setOutcome (m.tag.setWidth 6) (outcomeOf status) s)

/-- The pre-read of entry `i` has responded (R27, R28). -/
def prereadResponded (i : Nat) (status : MemStatus) (data : List Byte) (s : State) : State :=
  match s.entry i with
  | .owned line (.reading w) parked =>
    match status with
    | .ok => resolve i line w (some data) parked s
    | .fault =>
      resolve i line w none parked
        (offerFault .prereadFault .memory (BitVec.ofNat 8 (64 + i)) (some line) (raise .prereadFault s))
  | .owned _ (.slotWait _ _ _) _ => s
  | .owned _ .checking _ => s
  | .free => s

/-- The response goes to the owner of its tag (R146). -/
def ownerResponded (o : Outstanding) (status : MemStatus) (data : List Byte) (s : State) : State :=
  if o.req.tag.toNat < 64 then hostResponded o.req status data s
  else if o.req.tag.toNat < 72 then prereadResponded (o.req.tag.toNat - 64) status data s
  else if o.req.tag.toNat = 72 then
    match o.req.kind with
    | .read => checkResponded o.req.addr status data s
    | .write => restoreResponded o.req.addr status s
  else drainResponded o status s

/-- A response whose tag is not outstanding is dropped (R148). -/
def stray (tag : MemTag) (s : State) : State := offerFault .strayResponse .memory tag none (raise .strayResponse s)

/-- The data of a response as its owner takes it: the bytes of a read answered OK, and none otherwise (R140, R146). -/
def responseData (m : MemReq) (status : MemStatus) (data : List Byte) (k : Nat) : List Byte :=
  match m.kind, status with
  | .read, .ok => linkData m.len data k
  | .read, .fault => []
  | .write, .ok => []
  | .write, .fault => []

/-- A read answered OK whose data does not fit its length uses up one number of the free-value counter. -/
def responseFree (m : MemReq) (status : MemStatus) (data : List Byte) (s : State) : State :=
  match m.kind, status with
  | .read, .ok => useFree m.len data s
  | .read, .fault => s
  | .write, .ok => s
  | .write, .fault => s

/-- A tag stops being outstanding, and a memory credit frees with it (R146). -/
def closeTag (tag : MemTag) (s : State) : State :=
  { s with mem := { s.mem with outstanding := s.mem.outstanding.filter fun o => o.req.tag != tag } }

/-- A response arrives on the memory link and is routed by its tag (R146, R148). The arbiter looks after the owner has
acted. While RESET_N is asserted none arrives (log entry 4). -/
def routeResponse (tag : MemTag) (status : MemStatus) (data : List Byte) (s : State) : State :=
  if s.resetHeld then s
  else
    match s.mem.outstanding.find? fun o => o.req.tag == tag with
    | none => stray tag s
    | some o =>
      settle (ownerResponded o status (responseData o.req status data s.freeCount)
        (closeTag tag (responseFree o.req status data s)))

/-- PREREAD_RESPONSE (R27, R28, R29). -/
def execPrereadResponse (entry : BitVec 3) (status : MemStatus) (data : List Byte) (s : State) :
    Host.Outcome State Fault Refusal :=
  .next (routeResponse (BitVec.ofNat 8 (64 + entry.toNat)) status data s)

/-- MEMORY_RESPONSE (R147). -/
def execMemoryResponse (tag : HostTag) (status : MemStatus) (data : List Byte) (s : State) :
    Host.Outcome State Fault Refusal :=
  .next (routeResponse (tag.setWidth 8) status data s)

/-- CHECK_READ_RESPONSE (R106, R107, R111). -/
def execCheckReadResponse (status : MemStatus) (data : List Byte) (s : State) : Host.Outcome State Fault Refusal :=
  .next (routeResponse 72 status data s)

/-- RESTORE_RESPONSE (R108, R109, R111). -/
def execRestoreResponse (status : MemStatus) (s : State) : Host.Outcome State Fault Refusal :=
  .next (routeResponse 72 status [] s)

/-- DRAIN_RESPONSE (R123, R128, R129, R132). -/
def execDrainResponse (n : BitVec 2) (status : MemStatus) (s : State) : Host.Outcome State Fault Refusal :=
  .next (routeResponse (BitVec.ofNat 8 (73 + n.toNat)) status [] s)

/-- STRAY_RESPONSE: stray where its tag is not outstanding, and otherwise the response of that tag (R148). -/
def execStrayResponse (tag : MemTag) (status : MemStatus) (data : List Byte) (s : State) :
    Host.Outcome State Fault Refusal :=
  .next (routeResponse tag status data s)

end Sys2Proof.Machine
end

