-- ==== Sys2Proof/Machine/Sessions.lean ====
section
/-! DEFINITION. The sequencer, session and ring commands (03, 04, 05). -/

namespace Sys2Proof.Machine

/-! ### Sequencer -/

/-- The stage record that a SEQ_SET carries, or none where a field is out of range (R84, R171). -/
def stageArg (args : List Byte) : Option Stage :=
  match stageWindowOf (argField args 1 1), yesNoOf (argField args 8 1) with
  | some window, some quiet =>
    if argField args 2 2 = 0 then none
    else some { window := window, target := argField args 2 2, within := argField args 4 4, quiet := quiet }
  | _, _ => none

/-- SEQ_SET's checks and effect (R84). -/
def runSeqSet (args : List Byte) (s : State) : Reply :=
  if 7 < argField args 0 1 then refuses .badArg s
  else if s.session.state ≠ .idle then refuses .badState s
  else
    match stageArg args with
    | some st => done { s with seqr := { s.seqr with stages := s.seqr.stages.setIfInBounds (argField args 0 1) st } }
    | none => refuses .badArg s

/-- SEQ_SET (R84). -/
def execSeqSet (f : Frame) (s : State) : Host.Outcome State Fault Refusal := .next (portFrame 0x18 9 runSeqSet f s)

/-- SEQ_GET's check and result (R86). -/
def runSeqGet (args : List Byte) (s : State) : Reply :=
  if 7 < argField args 0 1 then refuses .badArg s else shows (stageBytes (s.stageAt (argField args 0 1)) s.seqr.length) s

/-- SEQ_GET (R86). -/
def execSeqGet (f : Frame) (s : State) : Host.Outcome State Fault Refusal := .next (portFrame 0x19 1 runSeqGet f s)

/-- SEQ_LENGTH's checks and effect (R85). -/
def runSeqLength (args : List Byte) (s : State) : Reply :=
  if argField args 0 1 = 0 ∨ 8 < argField args 0 1 then refuses .badArg s
  else if s.session.state ≠ .idle then refuses .badState s
  else done { s with seqr := { s.seqr with length := argField args 0 1 } }

/-- SEQ_LENGTH (R85). -/
def execSeqLength (f : Frame) (s : State) : Host.Outcome State Fault Refusal := .next (portFrame 0x1A 1 runSeqLength f s)

/-- SEQ_FIRE's check and effect (R95). -/
def runSeqFire (s : State) : Reply :=
  if s.session.state = .armed then done (fire .manual s) else refuses .badState s

/-- SEQ_FIRE (R95). -/
def execSeqFire (f : Frame) (s : State) : Host.Outcome State Fault Refusal := .next (portFrame 0x1B 0 (fun _ => runSeqFire) f s)

/-! ### Session -/

/-- The arguments of SESSION_START. -/
structure StartArgs where
  kind : SessionKind
  p : Nat
  q : Nat
  policy : Policy
  threshold : Nat
deriving DecidableEq, Repr

/-- The arguments of a SESSION_START, or none where one is out of range (R67, check 1). -/
def startArg (args : List Byte) : Option StartArgs :=
  match sessionKindOf (argField args 0 1), policyOf (argField args 5 1) with
  | some kind, some policy =>
    let p := argField args 1 2
    let q := argField args 3 2
    let threshold := argField args 6 2
    if 511 < p ∨ 511 < q ∨ threshold = 0 ∨ 512 < threshold ∨ (kind = .triggered ∧ 511 < p + q) then none
    else some { kind := kind, p := p, q := q, policy := policy, threshold := threshold }
  | _, _ => none

/-- An accepted SESSION_START (R68, R88, R131). -/
def startSession (a : StartArgs) (s : State) : State :=
  match a.kind with
  | .continuous =>
    settle
      { s with
        ring := { s.ring with threshold := a.threshold, policy := a.policy }
        session := { s.session with kind := some .continuous, state := .running }
        drain := { s.drain with state := if s.drain.state = .ready then .running else s.drain.state } }
  | .triggered =>
    { s with
      ring := { s.ring with threshold := a.threshold }
      session := { s.session with kind := some .triggered, state := .armed, p := a.p, q := a.q, post := 0 }
      seqr := { s.seqr with state := .counting, stage := 0, count := 0, elapsed := 0 } }

/-- SESSION_START's checks and effect (R67, R68). -/
def runSessionStart (args : List Byte) (s : State) : Reply :=
  match startArg args with
  | none => refuses .badArg s
  | some a =>
    if s.session.state ≠ .idle then refuses .badState s
    else if s.rollback.state = .aborting ∨ s.drain.state = .stopping ∨ s.drain.state = .faulting then refuses .busy s
    else done (startSession a s)

/-- SESSION_START (R67, R68). -/
def execSessionStart (f : Frame) (s : State) : Host.Outcome State Fault Refusal :=
  .next (portFrame 0x20 8 runSessionStart f s)

/-- SESSION_STOP's check and effect (R77). -/
def runSessionStop (s : State) : Reply :=
  if s.recording then done (settle (stopSession .command s)) else refuses .badState s

/-- SESSION_STOP (R77). -/
def execSessionStop (f : Frame) (s : State) : Host.Outcome State Fault Refusal := .next (portFrame 0x21 0 (fun _ => runSessionStop) f s)

/-! ### Ring -/

/-- The result of RING_STATUS (R60, 11.4). -/
def Ring.statusBytes (r : Ring) : List Byte :=
  beBytes 2 r.recs.length ++ beBytes 4 ((r.recs.head?.map Rec.seq).getD 0) ++ beBytes 4 ((r.recs.getLast?.map Rec.seq).getD 0) ++
  beBytes 5 r.nextSeq ++ beBytes 4 r.gap ++ beBytes 2 r.free

/-- RING_STATUS (R60). -/
def execRingStatus (f : Frame) (s : State) : Host.Outcome State Fault Refusal :=
  .next (portFrame 0x28 0 (fun _ t => shows t.ring.statusBytes t) f s)

/-- RING_READ's checks and result (R61). -/
def runRingRead (args : List Byte) (s : State) : Reply :=
  match ringPartOf (argField args 4 1) with
  | none => refuses .badArg s
  | some part =>
    match s.ring.find (argField args 0 4) with
    | none => refuses .notFound s
    | some r => shows (r.readBytes part) s

/-- RING_READ (R61). -/
def execRingRead (f : Frame) (s : State) : Host.Outcome State Fault Refusal := .next (portFrame 0x29 5 runRingRead f s)

/-- The records from the oldest through a sequence number leave the ring (R62). -/
def releaseThrough (seq : Nat) (s : State) : State :=
  { s with ring := { s.ring with recs := s.ring.recs.dropWhile fun r => decide (r.seq ≤ seq) } }

/-- RING_RELEASE's checks and effect (R62). -/
def runRingRelease (args : List Byte) (s : State) : Reply :=
  if (s.ring.find (argField args 0 4)).isNone then refuses .notFound s
  else if (s.ring.recs.takeWhile fun r => decide (r.seq ≤ argField args 0 4)).any Rec.isPending ∨ s.rollback.state ≠ .idle ∨
      s.drain.state = .running ∨ s.drain.state = .stopping ∨ s.drain.state = .faulting then refuses .busy s
  else done (settle (serveSlots (releaseThrough (argField args 0 4) s)))

/-- RING_RELEASE (R62). -/
def execRingRelease (f : Frame) (s : State) : Host.Outcome State Fault Refusal := .next (portFrame 0x2A 4 runRingRelease f s)

end Sys2Proof.Machine
end

