-- ==== Sys2Proof/Machine/TimeAndEvents.lean ====
section
/-! DEFINITION. The time base and its ticks, the time commands, and the event commands (09_time_base_and_events.md). -/

namespace Sys2Proof.Machine

/-! ### Ticks -/

/-- A tick completes in the time base: the counter advances and wraps, the period count starts again, and the tick that
begins takes the stored prescale (R152). -/
def TimeBase.ticked (t : TimeBase) : TimeBase :=
  { t with counter := t.counter + 1, periods := 0, tickPrescale := t.prescale }

/-- The sequencer counts a tick against the within of its stage; the tick that reaches it restarts the sequencer and raises
STAGE_TIMEOUT (R92). -/
def seqTick (s : State) : State :=
  match s.seqr.state with
  | .counting =>
    if (s.stageAt s.seqr.stage).within = 0 then s
    else if s.seqr.elapsed + 1 < (s.stageAt s.seqr.stage).within then
      { s with seqr := { s.seqr with elapsed := s.seqr.elapsed + 1 } }
    else raise .stageTimeout { s with seqr := { s.seqr with stage := 0, count := 0, elapsed := 0 } }
  | .idle => s
  | .done => s

/-- A tick of the time base, delivered to the sequencer in the same event (R92, R152). -/
def tickAll (s : State) : State := if s.resetHeld then s else seqTick { s with time := s.time.ticked }

/-- TICK (R152). -/
def execTick (s : State) : Host.Outcome State Fault Refusal := .next (tickAll s)

/-- STAGE_EXPIRY: a tick, the one that brings e to the within of stage k (R92; log entry 6). -/
def execStageExpiry (s : State) : Host.Outcome State Fault Refusal := .next (tickAll s)

/-- One period of REFCLK elapses; the one that ends the tick in progress completes it (R152; log entry 2). -/
def refclkPeriod (s : State) : State :=
  if s.resetHeld then s
  else if s.time.periods < s.time.tickPrescale.toNat then { s with time := { s.time with periods := s.time.periods + 1 } }
  else tickAll s

/-! ### Time commands -/

/-- TIME_READ (R153). -/
def execTimeRead (f : Frame) (s : State) : Host.Outcome State Fault Refusal :=
  .next (portFrame 0x48 0 (fun _ t => shows (beBytes 6 t.time.counter.toNat) t) f s)

/-- TIME_PRESCALE: the stored prescale takes the argument, and the tick in progress keeps its own (R153). -/
def execTimePrescale (f : Frame) (s : State) : Host.Outcome State Fault Refusal :=
  .next (portFrame 0x49 2 (fun args t =>
    done { t with time := { t.time with prescale := BitVec.ofNat 16 (argField args 0 2) } }) f s)

/-! ### Event commands -/

/-- The event set of an argument, cut to the assigned bits (R155, R156). -/
def eventArg (args : List Byte) : Set16 := BitVec.ofNat 16 (argField args 0 2) &&& assignedEvents

/-- EVENT_READ (R158). -/
def execEventRead (f : Frame) (s : State) : Host.Outcome State Fault Refusal :=
  .next (portFrame 0x50 0 (fun _ t => shows (beBytes 2 t.events.pending.toNat ++ beBytes 2 t.events.enabled.toNat) t) f s)

/-- EVENT_ACK: the named events leave the pending set (R156). -/
def execEventAck (f : Frame) (s : State) : Host.Outcome State Fault Refusal :=
  .next (portFrame 0x51 2 (fun args t =>
    done { t with events := { t.events with pending := t.events.pending &&& ~~~ eventArg args } }) f s)

/-- EVENT_ENABLE: the enabled set is replaced whole (R155). -/
def execEventEnable (f : Frame) (s : State) : Host.Outcome State Fault Refusal :=
  .next (portFrame 0x52 2 (fun args t => done { t with events := { t.events with enabled := eventArg args } }) f s)

/-- FAULT_READ: the record is returned, and is EMPTY in the same event (R160). -/
def execFaultRead (f : Frame) (s : State) : Host.Outcome State Fault Refusal :=
  .next (portFrame 0x53 0 (fun _ t =>
    shows (faultBytes t.events.fault) { t with events := { t.events with fault := none } }) f s)

end Sys2Proof.Machine
end

