-- ==== Sys2Proof/Machine/Windows.lean ====
section
/-! DEFINITION. The window commands, engagement, and HOLD_READ (1.8, 2.7, 8.8). -/

namespace Sys2Proof.Machine

/-! ### Windows -/

/-- The window fields that a WIN_SET carries, or none where one is out of range (R3, R14, R171). The window stays disabled,
and mask and value are cut to E bytes (R4). -/
def windowArg (args : List Byte) : Option Window :=
  match conditionOf (argField args 18 1), elemSizeOf (argField args 19 1), yesNoOf (argField args 36 1), guardOf (argField args 37 1) with
  | some condition, some element, some record, some guard =>
    let base := argField args 1 5
    let pitch := argField args 6 4
    let width := argField args 10 4
    let height := argField args 14 2
    if pitch = 0 ∨ 16777216 < pitch ∨ width = 0 ∨ pitch < width ∨ height = 0 ∨ 65535 < height ∨
        2 ^ 40 ≤ base + (height - 1) * pitch + width - 1 then none
    else
      some
        { enabled := false, base := BitVec.ofNat 40 base, pitch := pitch, width := width, height := height
          sources := BitVec.ofNat 16 (argField args 16 2), condition := condition, element := element
          mask := element.cut (BitVec.ofNat 64 (argField args 20 8)), value := element.cut (BitVec.ofNat 64 (argField args 28 8))
          record := record, guard := guard }
  | _, _, _, _ => none

/-- The window table with one record replaced. -/
def State.setWindow (s : State) (i : Nat) (w : Window) : State := { s with windows := s.windows.setIfInBounds i w }

/-- WIN_SET's checks and effect (R14). -/
def runWinSet (args : List Byte) (s : State) : Reply :=
  if 15 < argField args 0 1 then refuses .badArg s
  else if (s.window (argField args 0 1)).enabled then refuses .badState s
  else
    match windowArg args with
    | some w => done (s.setWindow (argField args 0 1) w)
    | none => refuses .badArg s

/-- WIN_SET (R14). -/
def execWinSet (f : Frame) (s : State) : Host.Outcome State Fault Refusal := .next (portFrame 0x10 38 runWinSet f s)

/-- WIN_GET's check and result (R15). -/
def runWinGet (args : List Byte) (s : State) : Reply :=
  if 15 < argField args 0 1 then refuses .badArg s else shows (windowBytes (s.window (argField args 0 1))) s

/-- WIN_GET (R15). -/
def execWinGet (f : Frame) (s : State) : Host.Outcome State Fault Refusal := .next (portFrame 0x11 1 runWinGet f s)

/-- WIN_ENABLE and WIN_DISABLE set the enabled field (R16, R17). -/
def runWinEnabled (b : Bool) (args : List Byte) (s : State) : Reply :=
  if 15 < argField args 0 1 then refuses .badArg s
  else done (s.setWindow (argField args 0 1) { s.window (argField args 0 1) with enabled := b })

/-- WIN_ENABLE (R16). -/
def execWinEnable (f : Frame) (s : State) : Host.Outcome State Fault Refusal := .next (portFrame 0x12 1 (runWinEnabled true) f s)

/-- WIN_DISABLE (R17). -/
def execWinDisable (f : Frame) (s : State) : Host.Outcome State Fault Refusal :=
  .next (portFrame 0x13 1 (runWinEnabled false) f s)

/-! ### Engagement -/

/-- ENGAGE (R149). -/
def execEngage (f : Frame) (s : State) : Host.Outcome State Fault Refusal :=
  .next (portFrame 0x08 0 (fun _ t => done { t with engaged := true }) f s)

/-- The switch to BYPASS: every slot wait ends unrecorded, with the gap counter growing for each (R38, R55, R149). -/
def toBypass (s : State) : State := settle (releaseSlots true s.ring.slotList { s with engaged := false })

/-- BYPASS (R149). -/
def execBypass (f : Frame) (s : State) : Host.Outcome State Fault Refusal :=
  .next (portFrame 0x09 0 (fun _ t => done (if t.engaged then toBypass t else t)) f s)

/-! ### HOLD_READ -/

/-- HOLD_READ's check and result (R41). -/
def runHoldRead (args : List Byte) (s : State) : Reply :=
  if 7 < argField args 0 1 then refuses .badArg s else shows (holdBytes (s.entry (argField args 0 1))) s

/-- HOLD_READ (R41). -/
def execHoldRead (f : Frame) (s : State) : Host.Outcome State Fault Refusal := .next (portFrame 0x40 1 runHoldRead f s)

end Sys2Proof.Machine
end

