-- ==== Sys2Proof/Machine/Dispatch.lean ====
section
/-! DEFINITION. The dispatch: one arm per command, each one call of its meaning. -/

namespace Sys2Proof.Machine

def exec (i : Instr) (s : State) : Host.Outcome State Fault Refusal :=
  match i with
  | .pinReset => Sys2Proof.Machine.execPinReset s
  | .resetNRelease csLow => Sys2Proof.Machine.execResetNRelease csLow s
  | .readReq tag source addr len => Sys2Proof.Machine.execReadReq tag source addr len s
  | .writeReq tag source addr len data => Sys2Proof.Machine.execWriteReq tag source addr len data s
  | .classification => Sys2Proof.Machine.execClassification s
  | .creditAnnouncement count => Sys2Proof.Machine.execCreditAnnouncement count s
  | .prereadResponse entry status data => Sys2Proof.Machine.execPrereadResponse entry status data s
  | .memoryResponse tag status data => Sys2Proof.Machine.execMemoryResponse tag status data s
  | .checkReadResponse status data => Sys2Proof.Machine.execCheckReadResponse status data s
  | .restoreResponse status => Sys2Proof.Machine.execRestoreResponse status s
  | .drainResponse n status => Sys2Proof.Machine.execDrainResponse n status s
  | .strayResponse tag status data => Sys2Proof.Machine.execStrayResponse tag status data s
  | .tick => Sys2Proof.Machine.execTick s
  | .stageExpiry => Sys2Proof.Machine.execStageExpiry s
  | .emptyFrame count => Sys2Proof.Machine.execEmptyFrame count s
  | .unknownCommand code f => Sys2Proof.Machine.execUnknownCommand code f s
  | .nop f => Sys2Proof.Machine.execNop f s
  | .ident f => Sys2Proof.Machine.execIdent f s
  | .status f => Sys2Proof.Machine.execStatus f s
  | .clearSession f => Sys2Proof.Machine.execClearSession f s
  | .clearWindows f => Sys2Proof.Machine.execClearWindows f s
  | .clearEvents f => Sys2Proof.Machine.execClearEvents f s
  | .clearAll f => Sys2Proof.Machine.execClearAll f s
  | .engage f => Sys2Proof.Machine.execEngage f s
  | .bypass f => Sys2Proof.Machine.execBypass f s
  | .winSet f => Sys2Proof.Machine.execWinSet f s
  | .winGet f => Sys2Proof.Machine.execWinGet f s
  | .winEnable f => Sys2Proof.Machine.execWinEnable f s
  | .winDisable f => Sys2Proof.Machine.execWinDisable f s
  | .seqSet f => Sys2Proof.Machine.execSeqSet f s
  | .seqGet f => Sys2Proof.Machine.execSeqGet f s
  | .seqLength f => Sys2Proof.Machine.execSeqLength f s
  | .seqFire f => Sys2Proof.Machine.execSeqFire f s
  | .sessionStart f => Sys2Proof.Machine.execSessionStart f s
  | .sessionStop f => Sys2Proof.Machine.execSessionStop f s
  | .ringStatus f => Sys2Proof.Machine.execRingStatus f s
  | .ringRead f => Sys2Proof.Machine.execRingRead f s
  | .ringRelease f => Sys2Proof.Machine.execRingRelease f s
  | .spillSet f => Sys2Proof.Machine.execSpillSet f s
  | .spillStatus f => Sys2Proof.Machine.execSpillStatus f s
  | .spillConsume f => Sys2Proof.Machine.execSpillConsume f s
  | .drainRestart f => Sys2Proof.Machine.execDrainRestart f s
  | .rollbackStart f => Sys2Proof.Machine.execRollbackStart f s
  | .rollbackAbort f => Sys2Proof.Machine.execRollbackAbort f s
  | .rollbackStatus f => Sys2Proof.Machine.execRollbackStatus f s
  | .holdRead f => Sys2Proof.Machine.execHoldRead f s
  | .timeRead f => Sys2Proof.Machine.execTimeRead f s
  | .timePrescale f => Sys2Proof.Machine.execTimePrescale f s
  | .eventRead f => Sys2Proof.Machine.execEventRead f s
  | .eventAck f => Sys2Proof.Machine.execEventAck f s
  | .eventEnable f => Sys2Proof.Machine.execEventEnable f s
  | .faultRead f => Sys2Proof.Machine.execFaultRead f s
  | .hostCreditOffer => Sys2Proof.Machine.execHostCreditOffer s

end Sys2Proof.Machine
end

