-- ==== Sys2Proof/Safety.lean ====
section
/-! DEFINITION. The terms in which claims about the WH40 are stated: what a frame's end leaves in the port, which host
requests are in the part, which bytes an element has, and the laws that the spec says the part keeps. -/

namespace Sys2Proof.Machine

/-! ### Frames -/

/-- The frame `f` is over (R163, R164): no frame is in progress, and MISO has carried the answer held until now. -/
def framed (f : Frame) (s : State) : State :=
  { s with port := { s.port with
      inFrame := false, rx := { received := [], bitCount := 0, shift := 0 }, awaitRise := false
      shifted := s.port.shiftOut (1 + f.args.length) f.left } }

/-- The outcome and the result now held (R162, R165). -/
def answered (outcome : PortOutcome) (result : List Byte) (s : State) : State :=
  { s with port := { s.port with heldOutcome := outcome, heldResult := result } }

/-- The argument count of each assigned command code (10.6). -/
def argCount (code : Byte) : Nat :=
  match code.toNat with
  | 0x03 => 1
  | 0x10 => 38
  | 0x11 => 1
  | 0x12 => 1
  | 0x13 => 1
  | 0x18 => 9
  | 0x19 => 1
  | 0x1A => 1
  | 0x20 => 8
  | 0x29 => 5
  | 0x2A => 4
  | 0x30 => 11
  | 0x32 => 3
  | 0x38 => 9
  | 0x40 => 1
  | 0x49 => 2
  | 0x51 => 2
  | 0x52 => 2
  | _ => 0

/-! ### The bytes a write leaves -/

/-- The byte at address `a` of a line after a write: the write's byte where it writes one, else the old byte (R9). -/
def byteAfter (old : List Byte) (r : HostReq) (a : Nat) : Byte :=
  if r.addr.toNat ≤ a ∧ a < r.addr.toNat + r.len then r.data.getD (a - r.addr.toNat) 0 else old.getD (a % 64) 0

/-- Byte `j` of a mask or value, byte 0 being the one that applies to the lowest-addressed byte (R4). -/
def maskByte (m : BitVec 64) (j : Nat) : Byte := m.extractLsb' (8 * j) 8

/-! ### The two links -/

/-- The host tags of an entry's owner and of the requests parked behind it (R136). -/
def HoldEntry.tags : HoldEntry → List HostTag
  | .free => []
  | .owned _ owner parked =>
    (match owner with
      | .reading w => [w.req.tag]
      | .slotWait w _ _ => [w.req.tag]
      | .checking => []) ++
    parked.filterMap fun x =>
      match x with
      | .host r _ => some r.tag
      | .claim _ => none

/-- The host tag of a request of the memory link; none for the part's own tags, 64 and above (R140). -/
def MemReq.hostTag (m : MemReq) : Option HostTag := if m.tag.toNat < 64 then some (m.tag.setWidth 6) else none

/-- The tags of the host requests in the part: in the ingress queue or at its head, in an entry or its parked list, in the
path issue queue, or outstanding at the memory (R136). -/
def State.tagsInPart (s : State) : List HostTag :=
  s.ingress.queue.map HostReq.tag ++ s.hold.entries.toList.flatMap HoldEntry.tags ++ s.mem.queue.filterMap MemReq.hostTag ++
  s.mem.outstanding.filterMap fun o => o.req.hostTag

/-- The entry is SLOT_WAIT (R19). -/
def HoldEntry.isSlotWait : HoldEntry → Bool
  | .free => false
  | .owned _ owner _ =>
    match owner with
    | .reading _ => false
    | .slotWait _ _ _ => true
    | .checking => false

/-- The credit count plus the requests in the part is 16, and no two of those have the same tag (R136, R137). The list of
the ring-slot arbiter names each of its entries once, and they are SLOT_WAIT (R32, R54). -/
def State.HostLaw (s : State) : Prop :=
  s.tagsInPart.Perm s.host.inPart ∧ s.host.inPart.Nodup ∧ s.host.credit + s.host.inPart.length = 16 ∧
  s.ring.slotList.Nodup ∧ ∀ i ∈ s.ring.slotList, (s.entry i).isSlotWait = true

/-- The requests outstanding never exceed the announced credit, which is at most 32 (R141, R145). -/
def State.CreditLaw (s : State) : Prop := s.mem.outstanding.length ≤ s.mem.credit ∧ s.mem.credit ≤ 32

/-- No credit is free while a requester has a request ready (R145). A drain tag is free while a line is offered, the path
issue queue holds no drain tag, and slot waits happen in RUNNING only (R54, R122, R144). -/
def State.GrantLaw (s : State) : Prop :=
  (s.mem.credit ≤ s.mem.outstanding.length ∨ (s.mem.queue = [] ∧ s.drain.offered = none)) ∧
  (s.drain.offered ≠ none → s.drainTags.length < 4) ∧
  (∀ m ∈ s.mem.queue, isDrainTag m.tag = false) ∧
  (s.ring.slotList ≠ [] → s.session.state = .running)

/-- The links run, and `o` is the outstanding request of a tag, which a response with the tag answers (R146). -/
def State.answering (s : State) (o : Outstanding) (tag : MemTag) : Prop :=
  s.resetHeld = false ∧ s.mem.outstanding.find? (fun x => x.req.tag == tag) = some o

/-- A FULL record gets its more flag, an EMPTY one takes the offer (R159). -/
def offered (f : Option FaultRec) (kind : FaultKind) (port : FaultPort) (tag : MemTag) (addr : Option Addr) (time : Time) :
    Option FaultRec :=
  match f with
  | none => some { kind := kind, port := port, tag := tag, addr := addr, time := time, more := false }
  | some r => some { r with more := true }

/-! ### The hold table -/

/-- An item of a parked list is for the line (R26). -/
def Parked.onLine (line : Addr) : Parked → Prop
  | .host r _ => lineOf r.addr = line
  | .claim c => c.line = line

/-- An owning entry's write and its parked items are all for its line (R21, R26). -/
def HoldEntry.onOneLine : HoldEntry → Prop
  | .free => True
  | .owned line owner parked =>
    (match owner with
      | .reading w => lineOf w.req.addr = line
      | .slotWait w _ _ => lineOf w.req.addr = line
      | .checking => True) ∧
    ∀ x ∈ parked, x.onLine line

/-- The lines that entries own. -/
def State.ownedLines (s : State) : List Addr := s.hold.entries.toList.filterMap HoldEntry.line?

/-- The rollback claims that an entry's parked list holds. -/
def HoldEntry.claimCount : HoldEntry → Nat
  | .free => 0
  | .owned _ _ parked => (parked.filter Parked.isClaim).length

/-- The rollback claims that wait, in parked lists or on the free-entry arbiter (R36). -/
def State.claimCount (s : State) : Nat :=
  (s.hold.entries.toList.map HoldEntry.claimCount).sum + (s.hold.arbiter.filter fun x => !x.isHead).length

/-- No two entries own the same line (R21), with what keeps it so: every entry's items are for its line (R26); no entry is
FREE while a claimant waits (R25); the head is on the arbiter exactly while it waits, and no entry owns a line that a
claimant wants (R24, R36); and the engine has one claim exactly while it is CLAIMING (R26, R104). -/
def State.LineLaw (s : State) : Prop :=
  s.ownedLines.Nodup ∧
  (∀ i, (s.entry i).onOneLine) ∧
  (s.hold.arbiter ≠ [] → ∀ i < 8, (s.entry i).isFree = false) ∧
  (s.hold.arbiter.filter Claimant.isHead).length = (if s.ingress.waiting.isSome then 1 else 0) ∧
  (s.ingress.waiting.isSome → s.ingress.queue ≠ []) ∧
  (∀ w, s.waitingHead = some w → lineOf w.req.addr ∉ s.ownedLines) ∧
  (∀ c, Claimant.rollback c ∈ s.hold.arbiter → c.line ∉ s.ownedLines) ∧
  s.claimCount = (if s.rollback.state = .claiming then 1 else 0)

/-! ### The ring and the session -/

/-- The numbers in the ring are consecutive, and the newest is next_seq minus one (R43, R46, R60). -/
def Ring.numbered (r : Ring) : Prop :=
  r.recs.length ≤ r.nextSeq ∧ r.recs.map Rec.seq = List.range' (r.nextSeq - r.recs.length) r.recs.length

/-- The ring holds at most 512 consecutively numbered records, next_seq stays at most 4,294,967,296 and is below it in the
recording states, the ring is empty in IDLE, and P and Q bound the ring in ARMED and FIRED (R43, R46, R47, R68, R70 to R72). -/
def State.RingLaw (s : State) : Prop :=
  s.ring.numbered ∧ s.ring.recs.length ≤ 512 ∧ s.ring.nextSeq ≤ 4294967296 ∧
  (s.recording = true → s.ring.nextSeq < 4294967296) ∧
  (s.session.state = .idle → s.ring.recs = [] ∧ s.ring.nextSeq = 0) ∧
  (s.session.state = .armed → s.ring.recs.length ≤ s.session.p ∧ s.session.p + s.session.q ≤ 511) ∧
  (s.session.state = .fired →
    s.ring.recs.length ≤ s.session.p + 1 + s.session.post ∧ s.session.post < s.session.q ∧ s.session.p + s.session.q ≤ 511)

/-- The sequencer and the session agree (R66, R87, R88), and the fields of each are in range (R65, R83, R87, R90, R92). -/
def State.SessionLaw (s : State) : Prop :=
  (s.seqr.state = .counting ↔ s.session.state = .armed) ∧
  (s.seqr.state = .done ↔ s.session.state = .fired ∨ s.session.state = .captured) ∧
  (s.session.kind = none ↔ s.session.state = .idle) ∧
  (s.session.state = .running → s.session.kind = some .continuous) ∧
  (s.session.state = .armed ∨ s.session.state = .fired ∨ s.session.state = .captured → s.session.kind = some .triggered) ∧
  (s.session.stopReason.isSome ↔ s.session.state = .stopped) ∧
  (s.session.guardsInForce = true →
    s.session.state = .fired ∨ s.session.state = .captured ∨ s.session.state = .stopped) ∧
  (s.session.state = .fired ∨ s.session.state = .captured → s.session.guardsInForce = true) ∧
  (1 ≤ s.seqr.length ∧ s.seqr.length ≤ 8) ∧
  (∀ i, 1 ≤ (s.stageAt i).target ∧ (s.stageAt i).target ≤ 65535 ∧ (s.stageAt i).within ≤ 4294967295) ∧
  (s.seqr.state = .idle → s.seqr.stage = 0 ∧ s.seqr.count = 0 ∧ s.seqr.elapsed = 0) ∧
  (s.session.p ≤ 511 ∧ s.session.q ≤ 511 ∧ s.session.post ≤ s.session.q) ∧
  (s.session.state = .fired → s.session.post < s.session.q) ∧
  (s.seqr.state = .done →
    s.seqr.elapsed = 0 ∧ s.seqr.stage < s.seqr.length ∧ s.seqr.count ≤ (s.stageAt s.seqr.stage).target) ∧
  (s.seqr.state = .counting →
    s.seqr.stage < s.seqr.length ∧ s.seqr.count < (s.stageAt s.seqr.stage).target ∧
    (s.seqr.elapsed = 0 ∨ s.seqr.elapsed < (s.stageAt s.seqr.stage).within))

/-! ### The drain -/

/-- The relations between the indices of the spill area (R117, R124), and the empty in-flight list in FAULTED (R129). -/
def State.SpillLaw (s : State) : Prop :=
  (s.drain.size = 0 → s.drain.p = 0 ∧ s.drain.c = 0 ∧ s.drain.u = 0 ∧ s.drain.q = 0 ∧ s.drain.inFlight = []) ∧
  (s.drain.size ≠ 0 →
    64 ≤ s.drain.size ∧ s.drain.size ≤ 262144 ∧ s.drain.p < s.drain.size ∧ s.drain.c < s.drain.size ∧
    s.drain.q < s.drain.size ∧ (s.drain.c + s.drain.u) % s.drain.size = s.drain.p ∧
    (s.drain.p + s.drain.flightLines) % s.drain.size = s.drain.q ∧ s.drain.u + s.drain.flightLines ≤ s.drain.size) ∧
  (s.drain.state = .faulted → s.drain.inFlight = [])

/-! ### Windows, events and the port -/

/-- The fields of a window are in the ranges of R1 and R3, and mask and value are cut to E bytes (R4). -/
def Window.inRange (w : Window) : Prop :=
  1 ≤ w.pitch ∧ w.pitch ≤ 16777216 ∧ 1 ≤ w.width ∧ w.width ≤ w.pitch ∧ 1 ≤ w.height ∧ w.height ≤ 65535 ∧
  w.base.toNat + (w.height - 1) * w.pitch + w.width - 1 < 2 ^ 40 ∧
  w.mask.toNat < 2 ^ (8 * w.element.bytes) ∧ w.value.toNat < 2 ^ (8 * w.element.bytes)

/-- Every window of the table is in range. -/
def State.WindowLaw (s : State) : Prop := ∀ i, (s.window i).inRange

/-- Bits 13 to 15 name no event and are zero in both sets (11.2); a result is held with OK only (R162). -/
def State.AnswerLaw (s : State) : Prop :=
  s.events.pending &&& ~~~ assignedEvents = 0 ∧ s.events.enabled &&& ~~~ assignedEvents = 0 ∧
  (s.port.heldOutcome ≠ .ok → s.port.heldResult = [])

end Sys2Proof.Machine
end

