-- ==== Sys2Proof/WellFormed.lean ====
section
/-! DEFINITION. Which commands are ones the outside can send: the checks that the operand types do not make. -/

namespace Sys2Proof

/-- A read answered OK carries `n` bytes, and no other response carries data (R135, R140). -/
def readDataOk (status : MemStatus) (data : List Byte) (n : Nat) : Bool :=
  match status with
  | .ok => decide (data.length = n)
  | .fault => data.isEmpty

/-- The first argument byte of a frame is `b`. -/
def firstArgIs (f : Frame) (b : Byte) : Bool := f.args.head? == some b

/-- The command is one that can be sent. The host's write carries one byte for each byte of its length (R135); a
pre-read or check read answered OK carries the 64 bytes of its line (R140); an UNKNOWN_COMMAND has an unassigned code (R165);
and the four CLEAR rows carry the scope of their row, SESSION taking the short and the unassigned ones with it (log entry
12). -/
def Instr.wellFormed : Instr → Bool
  | .pinReset => true
  | .resetNRelease _ => true
  | .readReq _ _ _ _ => true
  | .writeReq _ _ _ len data => decide (data.length = len)
  | .classification => true
  | .creditAnnouncement _ => true
  | .prereadResponse _ st data => readDataOk st data 64
  | .memoryResponse _ _ _ => true
  | .checkReadResponse st data => readDataOk st data 64
  | .restoreResponse _ => true
  | .drainResponse _ _ => true
  | .strayResponse _ _ _ => true
  | .tick => true
  | .stageExpiry => true
  | .emptyFrame _ => true
  | .unknownCommand code _ => !assignedCodes.contains code
  | .clearSession f => !firstArgIs f 2 && !firstArgIs f 3 && !firstArgIs f 4
  | .clearWindows f => firstArgIs f 2
  | .clearEvents f => firstArgIs f 3
  | .clearAll f => firstArgIs f 4
  | .nop _ => true
  | .ident _ => true
  | .status _ => true
  | .engage _ => true
  | .bypass _ => true
  | .winSet _ => true
  | .winGet _ => true
  | .winEnable _ => true
  | .winDisable _ => true
  | .seqSet _ => true
  | .seqGet _ => true
  | .seqLength _ => true
  | .seqFire _ => true
  | .sessionStart _ => true
  | .sessionStop _ => true
  | .ringStatus _ => true
  | .ringRead _ => true
  | .ringRelease _ => true
  | .spillSet _ => true
  | .spillStatus _ => true
  | .spillConsume _ => true
  | .drainRestart _ => true
  | .rollbackStart _ => true
  | .rollbackAbort _ => true
  | .rollbackStatus _ => true
  | .holdRead _ => true
  | .timeRead _ => true
  | .timePrescale _ => true
  | .eventRead _ => true
  | .eventAck _ => true
  | .eventEnable _ => true
  | .faultRead _ => true
  | .hostCreditOffer => true

end Sys2Proof
end

