-- ==== Sys2Proof/Certificates/Slice0/Obligations.lean ====
section
/-! DEFINITION. The statements about the WH40, each from the numbered rules of spec/ or derived from them. -/

open Sys2Proof Sys2Proof.Machine

/-! ### The machine and its resets -/

/-- A step takes the command at the front of the queue and runs it on the state with the queue's rest. -/
def Obligations.StepRunsFrontCommand : Prop :=
  ∀ (c : Instr) (rest : List Instr) (s : State),
    step { s with pending := c :: rest } = exec c { s with pending := rest }

/-- The state after reset, field by field, at the values of the Reset columns (R1, R19, R40, R64, R65, R83, R87, R98, R117,
R151, R152, R161, R162). RESET_N is released in it, and the model's own fields are empty (log entries 1, 3, 8, 10, 11). -/
def Obligations.ResetValues : Prop :=
  (∀ i < 16, State.reset.window i =
    { enabled := false, base := 0, pitch := 64, width := 64, height := 1, sources := 0xFFFF, condition := .any
      element := .e1, mask := 0, value := 0, record := false, guard := .off }) ∧
  (∀ i < 8, State.reset.entry i = .free) ∧ State.reset.hold.arbiter = [] ∧
  State.reset.ring =
    { recs := [], outcomeMap := [], policy := .skip, threshold := 256, gap := 0, nextSeq := 0, slotList := [] } ∧
  State.reset.session =
    { state := .idle, kind := none, stopReason := none, p := 0, q := 0, post := 0, guardsInForce := false } ∧
  (∀ i < 8, State.reset.stageAt i = { window := some 0, target := 1, within := 0, quiet := false }) ∧
  (State.reset.seqr.length = 1 ∧ State.reset.seqr.state = .idle ∧ State.reset.seqr.stage = 0 ∧
    State.reset.seqr.count = 0 ∧ State.reset.seqr.elapsed = 0) ∧
  State.reset.rollback =
    { state := .idle, mode := .force, first := 0, cursor := 0, result := .none, pendingResult := none, restored := 0
      conflicts := 0, skipped := 0 } ∧
  State.reset.drain =
    { state := .off, base := 0, size := 0, watermark := 0, p := 0, c := 0, u := 0, q := 0, inFlight := []
      offered := none, stopCause := none, endState := none } ∧
  State.reset.host = { credit := 16, inPart := [], started := false, sent := [] } ∧
  State.reset.ingress = { queue := [], waiting := none } ∧
  State.reset.mem = { credit := 0, queue := [], outstanding := [], lastGrant := .drain, sent := [] } ∧
  State.reset.engaged = false ∧
  State.reset.time = { counter := 0, prescale := 0, tickPrescale := 0, periods := 0 } ∧
  State.reset.events = { pending := 0, enabled := 0, fault := none } ∧ State.reset.irqAsserted = false ∧
  State.reset.port =
    { heldOutcome := .none, heldResult := [], inFrame := false, rx := { received := [], bitCount := 0, shift := 0 }, awaitRise := false
      shifted := ⟨[], []⟩ } ∧
  State.reset.resetHeld = false ∧ State.reset.pending = [] ∧ State.reset.freeCount = 0

/-- PIN_RESET brings every block to its reset value from any state, with RESET_N asserted; RESET_N_RELEASE then lets the
links restart, begins the first tick with the period count at 0, and leaves no frame in progress, the port waiting for a
rise of CS_N first where CS_N is low (R151, R152, R163). While RESET_N is asserted no other command changes anything; for the
memory link that is the model's reading (log entry 4). -/
def Obligations.PinResetAndRelease : Prop :=
  (∀ s : State, exec .pinReset s =
    .next { State.reset with pending := s.pending, freeCount := s.freeCount, resetHeld := true }) ∧
  (∀ (csLow : Bool) (s : State), s.resetHeld = true →
    exec (.resetNRelease csLow) s = .next { s with
      resetHeld := false
      time := { s.time with tickPrescale := s.time.prescale, periods := 0 }
      port := { s.port with inFrame := false, rx := { received := [], bitCount := 0, shift := 0 }, awaitRise := csLow } }) ∧
  (∀ (csLow : Bool) (s : State), s.resetHeld = false → exec (.resetNRelease csLow) s = .next s) ∧
  ∀ (c : Instr) (s : State), s.resetHeld = true → c ≠ .pinReset → (∀ b, c ≠ .resetNRelease b) → exec c s = .next s

/-- The links start: the part offers its 16 credits (R136, R151), and the first announcement of memory credits that is
not 0 sets C, an announcement above 32 being taken as 32 and every later one ignored; the grants it makes possible are made
in the same event (R141). That the offer is made once, a second HOST_CREDIT_OFFER changing nothing, is the model's reading
(log entry 23). -/
def Obligations.LinksStart : Prop :=
  (∀ s : State, s.resetHeld = false → s.host.started = false →
    exec .hostCreditOffer s = .next { s with host := { s.host with started := true, sent := s.host.sent ++ [.creditOffer 16] } }) ∧
  (∀ s : State, s.host.started = true → exec .hostCreditOffer s = .next s) ∧
  (∀ (n : Nat) (s : State), s.resetHeld = false → s.mem.credit = 0 → n ≠ 0 →
    exec (.creditAnnouncement n) s =
      .next (settle { s with mem := { s.mem with credit := if 32 < n then 32 else n } })) ∧
  ∀ (n : Nat) (s : State), s.mem.credit ≠ 0 ∨ n = 0 → exec (.creditAnnouncement n) s = .next s

/-! ### The host link and the ingress head -/

/-- A request that arrives is checked in the order of R137: with no credit it is discarded; with its tag in use it is
discarded and its credit returned bare; otherwise it is accepted and joins the tail of the ingress queue. A violation is
PROTOCOL and an offer to the fault record. A write carries its bytes, one for each byte of its length; in a message that
does not have so many they are free (the model's choice, log entry 8). -/
def Obligations.RequestArrival : Prop :=
  ∀ (tag : HostTag) (source : Source) (addr : Addr) (len : Nat) (data : List Byte) (c : Instr) (s : State),
    s.resetHeld = false → c = .readReq tag source addr len ∨ c = .writeReq tag source addr len data →
    ∃ (r : HostReq) (n : Nat),
      (r.tag = tag ∧ r.source = source ∧ r.addr = addr ∧ r.len = len) ∧
      (c = .readReq tag source addr len → r.kind = .read ∧ r.data = [] ∧ n = s.freeCount) ∧
      (c = .writeReq tag source addr len data → r.kind = .write ∧ r.data.length = len ∧
        (data.length = len → r.data = data ∧ n = s.freeCount)) ∧
      exec c s = .next (
        if s.host.credit = 0 then
          { s with
            freeCount := n
            events := { s.events with
              pending := s.events.pending ||| Event.protocol.set
              fault := offered s.events.fault .protocol .host (tag.setWidth 8) (some addr) s.time.counter } }
        else if tag ∈ s.host.inPart then
          { s with
            freeCount := n
            host := { s.host with sent := s.host.sent ++ [HostMsg.creditReturn] }
            events := { s.events with
              pending := s.events.pending ||| Event.protocol.set
              fault := offered s.events.fault .protocol .host (tag.setWidth 8) (some addr) s.time.counter } }
        else
          { s with
            freeCount := n
            host := { s.host with credit := s.host.credit - 1, inPart := s.host.inPart ++ [tag] }
            ingress := { s.ingress with queue := s.ingress.queue ++ [r] } })

/-- A malformed request at the ingress head is answered MALFORMED there, in either engagement state and even where its
line is owned: its credit returns, PROTOCOL and the fault record take the violation, and the queue advances (R138). -/
def Obligations.MalformedAnsweredAtHead : Prop :=
  ∀ (r : HostReq) (rest : List HostReq) (s : State),
    s.resetHeld = false → s.ingress.queue = r :: rest → s.ingress.waiting = none →
    (r.len = 0 ∨ 64 < r.len ∨ 64 < r.addr.toNat % 64 + r.len) →
    exec .classification s = .next (settle { s with
      ingress := { queue := rest, waiting := none }
      host := { s.host with
        credit := s.host.credit + 1, inPart := s.host.inPart.erase r.tag
        sent := s.host.sent ++ [.response r.tag .malformed []] }
      events := { s.events with
        pending := s.events.pending ||| Event.protocol.set
        fault := offered s.events.fault .protocol .host (r.tag.setWidth 8) (some r.addr) s.time.counter } })

/-- The other cases of R22 at the ingress head: the request parks behind its line's owner; with no owner and no candidate
window it joins the path issue queue; a watched write takes the lowest FREE entry with its pre-read (R23), or waits at the
head as a claimant (R24). With no head, or while the head waits, nothing is classified. -/
def Obligations.ClassificationOfHead : Prop :=
  (∀ s : State, s.ingress.queue = [] ∨ s.ingress.waiting ≠ none → exec .classification s = .next s) ∧
  ∀ (r : HostReq) (rest : List HostReq) (s : State),
    s.resetHeld = false → s.ingress.queue = r :: rest → s.ingress.waiting = none →
    1 ≤ r.len → r.len ≤ 64 → r.addr.toNat % 64 + r.len ≤ 64 →
    (∀ i line owner parked, i < 8 → s.entry i = .owned line owner parked → line = lineOf r.addr →
      (∀ j < i, ∀ o l, s.entry j ≠ .owned line o l) →
      exec .classification s = .next (settle (({ s with ingress := { queue := rest, waiting := none } } : State).setEntry i
        (.owned line owner (parked ++ [Parked.host r (s.candidates r)]))))) ∧
    ((∀ i < 8, (s.entry i).line? ≠ some (lineOf r.addr)) →
      (s.candidates r = 0 →
        exec .classification s = .next (settle { s with
          ingress := { queue := rest, waiting := none }
          mem := { s.mem with queue := s.mem.queue ++
            [{ kind := r.kind, tag := r.tag.setWidth 8, addr := r.addr, len := r.len, data := r.data }] } })) ∧
      (s.candidates r ≠ 0 → (∀ i < 8, s.entry i ≠ .free) →
        exec .classification s = .next (settle { s with
          ingress := { s.ingress with waiting := some (s.candidates r) }
          hold := { s.hold with arbiter := s.hold.arbiter ++ [.head] } })) ∧
      (s.candidates r ≠ 0 → s.hold.arbiter = [] →
        ∀ i < 8, s.entry i = .free → (∀ j < i, s.entry j ≠ .free) →
        exec .classification s = .next (settle (({ s with
          ingress := { queue := rest, waiting := none }
          mem := { s.mem with queue := s.mem.queue ++
            [{ kind := .read, tag := BitVec.ofNat 8 (64 + i), addr := lineOf r.addr, len := 64, data := [] }] } } :
              State).setEntry i
          (.owned (lineOf r.addr) (.reading { req := r, cands := s.candidates r }) [])))))

/-! ### Windows, hits and guards -/

/-- Membership of a byte in a window (R2): the quotient and remainder test; the rows it makes, each address in one row and
at one column; and the single range where width equals pitch. -/
def Obligations.WindowRegion : Prop :=
  ∀ (w : Window) (a : Nat), w.inRange →
    (w.inside a = true ↔
      w.base.toNat ≤ a ∧ (a - w.base.toNat) / w.pitch < w.height ∧ (a - w.base.toNat) % w.pitch < w.width) ∧
    (w.inside a = true ↔ ∃ k < w.height, ∃ j < w.width, a = w.base.toNat + k * w.pitch + j) ∧
    (∀ k j k' j', j < w.width → j' < w.width →
      w.base.toNat + k * w.pitch + j = w.base.toNat + k' * w.pitch + j' → k = k' ∧ j = j') ∧
    (w.width = w.pitch → (w.inside a = true ↔ w.base.toNat ≤ a ∧ a < w.base.toNat + w.height * w.pitch)) ∧
    (w.inside a = true → a < 2 ^ 40)

/-- The candidate set of a host request (R5): a write classified while ENGAGED has every enabled window that watches its
source and holds one of its bytes; a read, and a request classified in BYPASS, have none. -/
def Obligations.CandidateSet : Prop :=
  ∀ (s : State) (r : HostReq) (i : Nat), i < 16 →
    ((s.candidates r).getLsbD i = true ↔
      r.kind = .write ∧ s.engaged = true ∧ (s.window i).enabled = true ∧
      (s.window i).sources.getLsbD r.source.toNat = true ∧
      ∃ k < r.len, (s.window i).inside (r.addr.toNat + k) = true)

/-- The hit set (R8, R10, R11): a candidate that is enabled at resolution is hit when its condition holds at a byte that is
both written and inside its current region, and, with the old bytes absent, whatever its fields. The write is refused
exactly when a hit window has guard ALWAYS, or AFTER_FIRE with the guards in force (R12, R29). A record is due by the hit
windows with record yes, which are the windows of a WRITE record (R11, R31). -/
def Obligations.HitSetAndRefusal : Prop :=
  (∀ (s : State) (w : HeldWrite) (i : Nat), i < 16 →
    ((s.hitSet w none).getLsbD i = true ↔ w.cands.getLsbD i = true ∧ (s.window i).enabled = true) ∧
    ∀ old : List Byte,
      ((s.hitSet w (some old)).getLsbD i = true ↔
        w.cands.getLsbD i = true ∧ (s.window i).enabled = true ∧
        ∃ k < w.req.len, (s.window i).inside (w.req.addr.toNat + k) = true ∧
          (s.window i).conditionAt old w.req (w.req.addr.toNat + k) = true)) ∧
  ∀ (s : State) (hits : Set16),
    (s.refuses hits = true ↔ ∃ i < 16, hits.getLsbD i = true ∧
      ((s.window i).guard = .always ∨ (s.window i).guard = .afterFire ∧ s.session.guardsInForce = true)) ∧
    ∀ i < 16, ((s.recordSet hits).getLsbD i = true ↔ hits.getLsbD i = true ∧ (s.window i).record = true)

/-- The condition at a touched element, byte by byte (R4, R9): ANY is always true; MATCH compares the bytes the element will
hold, masked, with the value, masked; CHANGE asks for a masked byte that the write alters. Byte j of mask and value applies
to the element's byte at j. -/
def Obligations.ElementConditions : Prop :=
  ∀ (w : Window) (old : List Byte) (r : HostReq) (a : Nat), w.inRange →
    old.length = 64 → r.data.length = r.len → 1 ≤ r.len → r.addr.toNat % 64 + r.len ≤ 64 →
    r.addr.toNat ≤ a → a < r.addr.toNat + r.len →
    (w.condition = .any → w.conditionAt old r a = true) ∧
    (w.condition = .matches →
      (w.conditionAt old r a = true ↔ ∀ j < w.element.bytes,
        byteAfter old r (a / w.element.bytes * w.element.bytes + j) &&& maskByte w.mask j =
          maskByte w.value j &&& maskByte w.mask j)) ∧
    (w.condition = .changes →
      (w.conditionAt old r a = true ↔ ∃ j < w.element.bytes,
        byteAfter old r (a / w.element.bytes * w.element.bytes + j) &&& maskByte w.mask j ≠
          old.getD ((a / w.element.bytes * w.element.bytes + j) % 64) 0 &&& maskByte w.mask j))

/-! ### Pre-reads and resolution -/

/-- A pre-read response resolves the write of its entry, in the event in which it arrives: with the 64 bytes as the old
line (R27), or, on FAULT, with the old bytes absent after PREREAD_FAULT and its offer (R28). -/
def Obligations.PrereadResponseResolves : Prop :=
  ∀ (i : BitVec 3) (o : Outstanding) (line : Addr) (w : HeldWrite) (parked : List Parked) (s : State),
    s.answering o (BitVec.ofNat 8 (64 + i.toNat)) → o.req.kind = .read → o.req.len = 64 →
    s.entry i.toNat = .owned line (.reading w) parked →
    (∀ data : List Byte, data.length = 64 →
      exec (.prereadResponse i .ok data) s =
        .next (settle (resolve i.toNat line w (some data) parked (closeTag (BitVec.ofNat 8 (64 + i.toNat)) s)))) ∧
    ∀ data : List Byte,
      exec (.prereadResponse i .fault data) s =
        .next (settle (resolve i.toNat line w none parked
          { closeTag (BitVec.ofNat 8 (64 + i.toNat)) s with events := { s.events with
              pending := s.events.pending ||| Event.prereadFault.set
              fault := offered s.events.fault .prereadFault .memory (BitVec.ofNat 8 (64 + i.toNat)) (some line)
                s.time.counter } }))

/-- A refused write is answered REFUSED in its resolution, its credit and tag are free, REFUSAL is pending, and nothing is
queued for it (R29, R30): its entry is released from a state `v` whose memory link, hold table and ingress are as before,
unless the last sequence number ends slot waits in the same event. A REFUSED record with the whole hit set is appended
where the session records and a window hit has record yes, under SKIP rows in RUNNING (R30, R44); then the count is taken,
where the write counts. Where it is neither recorded nor counted, ring, session, sequencer and drain stay as they were; outside the
recording states it is not recorded, whatever it hits (R69). That the releases of an exhaustion come before the entry's own
is the model's choice (log entry 13). -/
def Obligations.RefusedWriteAnswered : Prop :=
  ∀ (i : Nat) (line : Addr) (w : HeldWrite) (old : Option (List Byte)) (parked : List Parked) (hits : Set16)
    (info : WriteInfo) (s r u v : State),
    hits = s.hitSet w old → s.refuses hits = true →
    info = { addr := w.req.addr, len := w.req.len, source := w.req.source, tag := w.req.tag, windows := hits
             oldData := old.map fun l => (l.drop (w.req.addr.toNat % 64)).take w.req.len, newData := w.req.data } →
    r = { s with events := { s.events with pending := s.events.pending ||| Event.refusal.set } } →
    u = (if s.recordSet hits = 0 then r
      else match s.session.state with
        | .running => appendSkip (.refused info) s.time.counter r
        | .armed => appendArmed (.refused info) s.time.counter r
        | .fired => appendFired (.refused info) s.time.counter r
        | .idle => r
        | .captured => r
        | .stopped => r) →
    v = (if s.counts hits = true ∧ u.seqr.state = .counting then takeCount u else u) →
    ∃ t, resolve i line w old parked s = t ∧
      t = release i { v with host := { s.host with
        credit := s.host.credit + 1, inPart := s.host.inPart.erase w.req.tag
        sent := s.host.sent ++ [.response w.req.tag .refused []] } } ∧
      (s.ring.slotList = [] ∨ s.ring.nextSeq + 1 < 4294967295 →
        v.mem = s.mem ∧ v.hold = s.hold ∧ v.ingress = s.ingress ∧ v.rollback = s.rollback) ∧
      t.host = { s.host with
        credit := s.host.credit + 1, inPart := s.host.inPart.erase w.req.tag
        sent := s.host.sent ++ [.response w.req.tag .refused []] } ∧
      t.events.pending.getLsbD 6 = true ∧ t.windows = s.windows ∧ t.mem.outstanding = s.mem.outstanding ∧
      (s.session.state = .idle ∨ s.session.state = .captured ∨ s.session.state = .stopped ∨
          s.recordSet hits = 0 ∧ s.counts hits = false →
        t.ring = s.ring ∧ t.session = s.session ∧ t.seqr = s.seqr ∧ t.drain = s.drain)

/-- A write that goes ahead (R29, R31, R33). With an empty hit set it is queued as it was sent and its entry released,
neither recorded nor counted (R11). It gets no record where no window hit has record yes, outside the recording states, and
where it counts toward a quiet stage (R91); else its WRITE record goes to the appends of its session state. Then the
count is taken, where the write counts, the write is queued and its entry released; but where the HOLD rows give it no slot,
its entry goes to SLOT_WAIT instead, at the end of the ring-slot arbiter's list (R32, R53, R54). The last clause spells the
record and its pair in a RUNNING session with a slot free, no gap and numbers left (R52, R53). That the writes which an
exhaustion releases are queued before this one is the model's choice (log entry 13). -/
def Obligations.WriteThatGoesAhead : Prop :=
  (∀ (i : Nat) (line : Addr) (w : HeldWrite) (old : Option (List Byte)) (parked : List Parked) (s : State),
    s.hitSet w old = 0 →
    resolve i line w old parked s = release i { s with mem := { s.mem with queue := s.mem.queue ++
      [{ kind := w.req.kind, tag := w.req.tag.setWidth 8, addr := w.req.addr, len := w.req.len, data := w.req.data }] } }) ∧
  (∀ (i : Nat) (line : Addr) (w : HeldWrite) (old : Option (List Byte)) (parked : List Parked) (hits : Set16)
    (info : WriteInfo) (s v u : State),
    hits = s.hitSet w old → s.refuses hits = false →
    info = { addr := w.req.addr, len := w.req.len, source := w.req.source, tag := w.req.tag
             windows := s.recordSet hits
             oldData := old.map fun l => (l.drop (w.req.addr.toNat % 64)).take w.req.len, newData := w.req.data } →
    u = (if s.counts hits = true ∧ v.seqr.state = .counting then takeCount v else v) →
    (v = s ∧ (s.recordSet hits = 0 ∨
        s.session.state = .idle ∨ s.session.state = .captured ∨ s.session.state = .stopped ∨
        s.counts hits = true ∧ (s.stageAt s.seqr.stage).quiet = true) ∨
      s.recordSet hits ≠ 0 ∧ (s.counts hits = true → (s.stageAt s.seqr.stage).quiet = false) ∧
        (s.session.state = .running ∧ (s.ring.policy = .skip ∨ s.engaged = false) ∧
            v = appendSkip (.write info .pending false) s.time.counter s ∨
          s.session.state = .running ∧ s.ring.policy = .hold ∧ s.engaged = true ∧
            appendHold { time := s.time.counter, info := info } s = (v, false) ∨
          s.session.state = .armed ∧ v = appendArmed (.write info .pending false) s.time.counter s ∨
          s.session.state = .fired ∧ v = appendFired (.write info .pending false) s.time.counter s) →
      resolve i line w old parked s = release i { u with mem := { u.mem with queue := u.mem.queue ++
        [{ kind := w.req.kind, tag := w.req.tag.setWidth 8, addr := w.req.addr, len := w.req.len, data := w.req.data }] } }) ∧
    (s.recordSet hits ≠ 0 → s.session.state = .running → s.ring.policy = .hold → s.engaged = true →
      appendHold { time := s.time.counter, info := info } s = (v, true) →
      resolve i line w old parked s =
        ({ v with ring := { v.ring with slotList := v.ring.slotList ++ [i] } } : State).setEntry i
          (.owned line (.slotWait w old { time := s.time.counter, info := info }) parked))) ∧
  ∀ (i : Nat) (line : Addr) (w : HeldWrite) (old : Option (List Byte)) (parked : List Parked) (s : State),
    s.refuses (s.hitSet w old) = false → s.recordSet (s.hitSet w old) ≠ 0 → s.session.state = .running →
    s.ring.recs.length < 512 → s.ring.gap = 0 → s.ring.nextSeq < 4294967295 →
    resolve i line w old parked s = release i { s with
      mem := { s.mem with queue := s.mem.queue ++
        [{ kind := w.req.kind, tag := w.req.tag.setWidth 8, addr := w.req.addr, len := w.req.len, data := w.req.data }] }
      events := { s.events with pending :=
        if s.ring.recs.length + 1 = s.ring.threshold then s.events.pending ||| Event.ringThreshold.set
        else s.events.pending }
      ring := { s.ring with
        nextSeq := s.ring.nextSeq + 1
        outcomeMap := s.ring.outcomeMap ++ [(w.req.tag, s.ring.nextSeq)]
        recs := s.ring.recs ++
          [{ seq := s.ring.nextSeq, time := s.time.counter
             body := .write
               { addr := w.req.addr, len := w.req.len, source := w.req.source, tag := w.req.tag
                 windows := s.recordSet (s.hitSet w old)
                 oldData := old.map fun l => (l.drop (w.req.addr.toNat % 64)).take w.req.len
                 newData := w.req.data }
               .pending false }] } }

/-- A release walks the entry's parked list (R34): reads and unwatched writes are queued in order; the next watched write
becomes the owner, its pre-read queued after them and the rest still parked; a rollback claim passes the entry to the
engine, which in a CHECK mode holds it with the rest parked, and in FORCE queues its restore, the walk going on (R36). With
the list empty the entry goes to the claimant that has waited longer, at most the ingress head and one claim, and is FREE
with none (R25): the head takes it with its pre-read, a claim for the same line parking behind it; a claim takes it as the walk
hands it on, the head's write for the same line parking behind a check and taking the entry after a restore (R24, R36). The
one list of claimants is the model's form of the arbiter (log entry 20). -/
def Obligations.ReleaseWalk : Prop :=
  (∀ (i : Nat) (line : Addr) (owner : HoldOwner) (parked : List Parked) (s : State),
    s.entry i = .owned line owner parked → release i s = walk i parked s) ∧
  (∀ (i : Nat) (reqs : List HostReq) (s : State), i < 8 →
    (∀ (r : HostReq) (cands : Set16) (rest : List Parked), cands ≠ 0 →
      walk i (reqs.map (fun x => Parked.host x 0) ++ .host r cands :: rest) s =
        ({ s with mem := { s.mem with queue := s.mem.queue ++ reqs.map HostReq.item ++
          [{ kind := .read, tag := BitVec.ofNat 8 (64 + i), addr := lineOf r.addr, len := 64, data := [] }] } } :
            State).setEntry i
          (.owned (lineOf r.addr) (.reading { req := r, cands := cands }) rest)) ∧
    (∀ (c : Claim) (rest : List Parked), c.mode ≠ .force →
      walk i (reqs.map (fun x => Parked.host x 0) ++ .claim c :: rest) s =
        ({ s with
          rollback := { s.rollback with state := .checking }
          mem := { s.mem with queue := s.mem.queue ++ reqs.map HostReq.item ++
            [{ kind := .read, tag := 72, addr := c.line, len := 64, data := [] }] } } : State).setEntry i
          (.owned c.line .checking rest)) ∧
    (∀ (c : Claim) (rest : List Parked) (x : Rec) (w : WriteInfo) (st : RecOutcome) (b : Bool) (old : List Byte),
      c.mode = .force → s.ring.find s.rollback.cursor = some x → x.body = .write w st b → w.oldData = some old →
      walk i (reqs.map (fun x => Parked.host x 0) ++ .claim c :: rest) s = walk i rest { s with
        rollback := { s.rollback with state := .restoring }
        mem := { s.mem with queue := s.mem.queue ++ reqs.map HostReq.item ++
          [{ kind := .write, tag := 72, addr := w.addr, len := w.len, data := old }] } }) ∧
    (s.hold.arbiter = [] →
      walk i (reqs.map fun x => Parked.host x 0) s =
        ({ s with mem := { s.mem with queue := s.mem.queue ++ reqs.map HostReq.item } } : State).setEntry i .free) ∧
    walk i (reqs.map fun x => Parked.host x 0) s =
      walk i [] { s with mem := { s.mem with queue := s.mem.queue ++ reqs.map HostReq.item } }) ∧
  ∀ (i : Nat) (c : Claim) (s : State), i < 8 →
    (∀ (r : HostReq) (q : List HostReq) (cands : Set16) (pre : MemReq),
      s.ingress.queue = r :: q → s.ingress.waiting = some cands →
      pre = { kind := .read, tag := BitVec.ofNat 8 (64 + i), addr := lineOf r.addr, len := 64, data := [] } →
      (∀ rest, rest = [] ∨ rest = [.rollback c] ∧ c.line ≠ lineOf r.addr → s.hold.arbiter = .head :: rest →
        walk i [] s = ({ s with
          ingress := { queue := q, waiting := none }, hold := { s.hold with arbiter := rest }
          mem := { s.mem with queue := s.mem.queue ++ [pre] } } : State).setEntry i
            (.owned (lineOf r.addr) (.reading { req := r, cands := cands }) [])) ∧
      (s.hold.arbiter = [.head, .rollback c] → c.line = lineOf r.addr →
        walk i [] s = ({ s with
          ingress := { queue := q, waiting := none }, hold := { s.hold with arbiter := [] }
          mem := { s.mem with queue := s.mem.queue ++ [pre] } } : State).setEntry i
            (.owned (lineOf r.addr) (.reading { req := r, cands := cands }) [.claim c])) ∧
      (s.hold.arbiter = [.rollback c, .head] → c.mode ≠ .force →
        walk i [] s = ({ s with
          rollback := { s.rollback with state := .checking }
          ingress := if lineOf r.addr = c.line then { queue := q, waiting := none } else s.ingress
          hold := { s.hold with arbiter := if lineOf r.addr = c.line then [] else [.head] }
          mem := { s.mem with queue := s.mem.queue ++
            [{ kind := .read, tag := 72, addr := c.line, len := 64, data := [] }] } } : State).setEntry i
            (.owned c.line .checking (if lineOf r.addr = c.line then [.host r cands] else []))) ∧
      (∀ (x : Rec) (w : WriteInfo) (st : RecOutcome) (b : Bool) (old : List Byte),
        s.hold.arbiter = [.rollback c, .head] → c.mode = .force →
        s.ring.find s.rollback.cursor = some x → x.body = .write w st b → w.oldData = some old →
        walk i [] s = ({ s with
          rollback := { s.rollback with state := .restoring }
          ingress := { queue := q, waiting := none }, hold := { s.hold with arbiter := [] }
          mem := { s.mem with queue := s.mem.queue ++
            [{ kind := .write, tag := 72, addr := w.addr, len := w.len, data := old }, pre] } } : State).setEntry i
            (.owned (lineOf r.addr) (.reading { req := r, cands := cands }) []))) ∧
    (s.hold.arbiter = [.rollback c] → s.ingress.waiting = none →
      (c.mode ≠ .force →
        walk i [] s = ({ s with
          rollback := { s.rollback with state := .checking }, hold := { s.hold with arbiter := [] }
          mem := { s.mem with queue := s.mem.queue ++
            [{ kind := .read, tag := 72, addr := c.line, len := 64, data := [] }] } } : State).setEntry i
            (.owned c.line .checking [])) ∧
      (∀ (x : Rec) (w : WriteInfo) (st : RecOutcome) (b : Bool) (old : List Byte),
        c.mode = .force → s.ring.find s.rollback.cursor = some x → x.body = .write w st b → w.oldData = some old →
        walk i [] s = ({ s with
          rollback := { s.rollback with state := .restoring }, hold := { s.hold with arbiter := [] }
          mem := { s.mem with queue := s.mem.queue ++
            [{ kind := .write, tag := 72, addr := w.addr, len := w.len, data := old }] } } : State).setEntry i .free))

/-! ### Records joining the ring -/

/-- The four SKIP rows (R52), in a RUNNING session: the whole effect of each, with RING_FULL in the last and RING_THRESHOLD
where an append brings the count to the threshold (R57). A GAP that takes the last number is the only record its row
appends, and a record after a GAP may take it; `appendRec` then stops the session, as LastNumberStopsSession says (R47). A
WRITE record adds the pair of its tag and number to the outcome map, other records none (R48). -/
def Obligations.SkipRows : Prop :=
  (∀ (w : WriteInfo) (st : RecOutcome) (b : Bool) (n seq : Nat) (c : Cause),
    (RecBody.write w st b).pairs seq = [(w.tag, seq)] ∧ (RecBody.refused w).pairs seq = [] ∧
    (RecBody.gap n).pairs seq = [] ∧ (RecBody.trigger c).pairs seq = []) ∧
  ∀ (body : RecBody) (time : Time) (s t : State), s.session.state = .running → t = appendSkip body time s →
    (s.ring.recs.length < 512 → s.ring.gap = 0 →
      t = appendRec false body time s ∧
      (s.ring.nextSeq < 4294967295 → t = { s with
        ring := { s.ring with
          recs := s.ring.recs ++ [⟨s.ring.nextSeq, time, body⟩]
          outcomeMap := s.ring.outcomeMap ++ body.pairs s.ring.nextSeq
          nextSeq := s.ring.nextSeq + 1 }
        events := { s.events with pending := s.events.pending |||
          if s.ring.recs.length + 1 = s.ring.threshold then Event.ringThreshold.set else 0 } })) ∧
    (s.ring.recs.length < 511 → 0 < s.ring.gap → s.ring.nextSeq + 1 < 4294967295 →
      t = { s with
        ring := { s.ring with
          recs := s.ring.recs ++
            [⟨s.ring.nextSeq, s.time.counter, .gap s.ring.gap⟩, ⟨s.ring.nextSeq + 1, time, body⟩]
          outcomeMap := s.ring.outcomeMap ++ body.pairs (s.ring.nextSeq + 1)
          nextSeq := s.ring.nextSeq + 2, gap := 0 }
        events := { s.events with pending := s.events.pending |||
          if s.ring.recs.length + 1 = s.ring.threshold ∨ s.ring.recs.length + 2 = s.ring.threshold
          then Event.ringThreshold.set else 0 } }) ∧
    (s.ring.recs.length < 511 → 0 < s.ring.gap → s.ring.nextSeq + 1 = 4294967295 →
      t = appendRec false body time { s with
        ring := { s.ring with
          recs := s.ring.recs ++ [⟨s.ring.nextSeq, s.time.counter, .gap s.ring.gap⟩]
          nextSeq := 4294967295, gap := 0 }
        events := { s.events with pending := s.events.pending |||
          if s.ring.recs.length + 1 = s.ring.threshold then Event.ringThreshold.set else 0 } }) ∧
    (s.ring.recs.length = 511 → 0 < s.ring.gap → s.ring.nextSeq < 4294967295 →
      t = { s with
        ring := { s.ring with
          recs := s.ring.recs ++ [⟨s.ring.nextSeq, s.time.counter, .gap (min (s.ring.gap + 1) 4294967295)⟩]
          nextSeq := s.ring.nextSeq + 1, gap := 0 }
        events := { s.events with pending := s.events.pending |||
          if 512 = s.ring.threshold then Event.ringThreshold.set else 0 } }) ∧
    (s.ring.recs.length < 512 → 0 < s.ring.gap → s.ring.nextSeq = 4294967295 →
      t = appendRec false
        (.gap (if s.ring.recs.length = 511 then min (s.ring.gap + 1) 4294967295 else s.ring.gap)) s.time.counter
        { s with ring := { s.ring with gap := 0 } }) ∧
    (s.ring.recs.length = 512 →
      t = { s with
        ring := { s.ring with gap := min (s.ring.gap + 1) 4294967295 }
        events := { s.events with pending := s.events.pending ||| Event.ringFull.set } })

/-- The four HOLD rows (R53), in a RUNNING session, the whole effect of each (R57): the write's record, with a GAP before
it, or the entry's wait for a slot (the second part of the answer). A GAP that takes the last number is the only record
appended, and the write does not wait: it goes ahead unrecorded and is not counted in the gap counter (R47). A record after
a GAP may take the last number too. `appendRec` then stops the session, as LastNumberStopsSession says. -/
def Obligations.HoldRows : Prop :=
  ∀ (d : Draft) (s t : State) (waits : Bool), s.session.state = .running → appendHold d s = (t, waits) →
    (s.ring.recs.length < 512 → s.ring.gap = 0 →
      waits = false ∧ t = appendRec false (.write d.info .pending false) d.time s ∧
      (s.ring.nextSeq < 4294967295 → t = { s with
        ring := { s.ring with
          recs := s.ring.recs ++ [⟨s.ring.nextSeq, d.time, .write d.info .pending false⟩]
          outcomeMap := s.ring.outcomeMap ++ [(d.info.tag, s.ring.nextSeq)]
          nextSeq := s.ring.nextSeq + 1 }
        events := { s.events with pending := s.events.pending |||
          if s.ring.recs.length + 1 = s.ring.threshold then Event.ringThreshold.set else 0 } })) ∧
    (s.ring.recs.length < 511 → 0 < s.ring.gap → s.ring.nextSeq + 1 < 4294967295 →
      waits = false ∧ t = { s with
        ring := { s.ring with
          recs := s.ring.recs ++
            [⟨s.ring.nextSeq, s.time.counter, .gap s.ring.gap⟩, ⟨s.ring.nextSeq + 1, d.time, .write d.info .pending false⟩]
          outcomeMap := s.ring.outcomeMap ++ [(d.info.tag, s.ring.nextSeq + 1)]
          nextSeq := s.ring.nextSeq + 2, gap := 0 }
        events := { s.events with pending := s.events.pending |||
          if s.ring.recs.length + 1 = s.ring.threshold ∨ s.ring.recs.length + 2 = s.ring.threshold
          then Event.ringThreshold.set else 0 } }) ∧
    (s.ring.recs.length < 511 → 0 < s.ring.gap → s.ring.nextSeq + 1 = 4294967295 →
      waits = false ∧ t = appendRec false (.write d.info .pending false) d.time { s with
        ring := { s.ring with
          recs := s.ring.recs ++ [⟨s.ring.nextSeq, s.time.counter, .gap s.ring.gap⟩]
          nextSeq := 4294967295, gap := 0 }
        events := { s.events with pending := s.events.pending |||
          if s.ring.recs.length + 1 = s.ring.threshold then Event.ringThreshold.set else 0 } }) ∧
    (s.ring.recs.length = 511 → 0 < s.ring.gap → s.ring.nextSeq < 4294967295 →
      waits = true ∧ t = { s with
        ring := { s.ring with
          recs := s.ring.recs ++ [⟨s.ring.nextSeq, s.time.counter, .gap s.ring.gap⟩]
          nextSeq := s.ring.nextSeq + 1, gap := 0 }
        events := { s.events with pending := s.events.pending |||
          if 512 = s.ring.threshold then Event.ringThreshold.set else 0 } }) ∧
    (s.ring.recs.length < 512 → 0 < s.ring.gap → s.ring.nextSeq = 4294967295 →
      waits = false ∧
        t = appendRec false (.gap s.ring.gap) s.time.counter { s with ring := { s.ring with gap := 0 } }) ∧
    (s.ring.recs.length = 512 →
      waits = true ∧ t = { s with events := { s.events with pending := s.events.pending ||| Event.ringFull.set } })

/-- Records of a triggered session with numbers left: in ARMED they are kept within P, the oldest leaving for the new one
(R70); in FIRED they are appended and counted, and the Q-th brings CAPTURED (R71). An append that brings the count to the
threshold raises RING_THRESHOLD, and one that discards raises nothing (R57); nothing else changes. The record that takes the
last number is appended in ARMED as any other, and what the stop then does LastNumberStopsSession says, of FIRED too (R47). -/
def Obligations.TriggeredAppends : Prop :=
  (∀ (body : RecBody) (time : Time) (s : State),
    (s.session.p = 0 → appendArmed body time s = s) ∧
    (0 < s.session.p →
      appendArmed body time s = appendRec (decide (s.session.p ≤ s.ring.recs.length)) body time s)) ∧
  ∀ (body : RecBody) (time : Time) (s : State), s.ring.nextSeq < 4294967295 →
    (0 < s.session.p → s.ring.recs.length < s.session.p →
      appendArmed body time s = { s with
        ring := { s.ring with
          recs := s.ring.recs ++ [⟨s.ring.nextSeq, time, body⟩]
          outcomeMap := s.ring.outcomeMap ++ body.pairs s.ring.nextSeq
          nextSeq := s.ring.nextSeq + 1 }
        events := { s.events with pending := s.events.pending |||
          if s.ring.recs.length + 1 = s.ring.threshold then Event.ringThreshold.set else 0 } }) ∧
    (0 < s.session.p → s.session.p ≤ s.ring.recs.length →
      appendArmed body time s = { s with ring := { s.ring with
        recs := s.ring.recs.drop 1 ++ [⟨s.ring.nextSeq, time, body⟩]
        outcomeMap := s.ring.outcomeMap ++ body.pairs s.ring.nextSeq
        nextSeq := s.ring.nextSeq + 1 } }) ∧
    appendFired body time s = { s with
      ring := { s.ring with
        recs := s.ring.recs ++ [⟨s.ring.nextSeq, time, body⟩]
        outcomeMap := s.ring.outcomeMap ++ body.pairs s.ring.nextSeq
        nextSeq := s.ring.nextSeq + 1 }
      session := { s.session with
        post := s.session.post + 1
        state := if s.session.q ≤ s.session.post + 1 then .captured else s.session.state }
      events := { s.events with pending := s.events.pending |||
        (if s.ring.recs.length + 1 = s.ring.threshold then Event.ringThreshold.set else 0) |||
          (if s.session.q ≤ s.session.post + 1 then Event.captured.set else 0) } }

/-- The append that takes the last number, 4,294,967,295, stops the session in the same event (R47): STOPPED with reason
EXHAUSTED, SEQ_EXHAUSTED pending, the sequencer IDLE, the gap counter kept. So it is of an append in FIRED too, even where it
brings post-count to Q: the record is appended and counted, and the session is STOPPED and CAPTURED not raised (R71). The slot
waits end with every waiting write queued unrecorded and its entry released (R56), which is all that happens to the hold table,
the ingress and the memory link. -/
def Obligations.LastNumberStopsSession : Prop :=
  ∀ (fired discard : Bool) (body : RecBody) (time : Time) (s u v : State), s.ring.nextSeq = 4294967295 →
    (fired = true → discard = false) →
    u = { s with
      ring := { s.ring with
        recs := (if discard then s.ring.recs.drop 1 else s.ring.recs) ++ [⟨4294967295, time, body⟩]
        outcomeMap := s.ring.outcomeMap ++ body.pairs 4294967295
        nextSeq := 4294967296 }
      session := { s.session with
        post := if fired then s.session.post + 1 else s.session.post
        state := .stopped, stopReason := some .exhausted } } →
    v = (if fired then appendFired body time s else appendRec discard body time s) →
    v.ring = { u.ring with slotList := [] } ∧ v.session = u.session ∧
    v.seqr = { s.seqr with state := .idle, stage := 0, count := 0, elapsed := 0 } ∧
    v.hold = (releaseSlots false s.ring.slotList u).hold ∧
    v.ingress = (releaseSlots false s.ring.slotList u).ingress ∧
    v.mem = (releaseSlots false s.ring.slotList u).mem ∧
    v.rollback = (releaseSlots false s.ring.slotList u).rollback ∧
    v.events = { s.events with pending := s.events.pending |||
      (if discard = false ∧ s.ring.recs.length + 1 = s.ring.threshold then Event.ringThreshold.set else 0) |||
        Event.seqExhausted.set } ∧
    v.windows = s.windows ∧ v.engaged = s.engaged ∧ v.host = s.host ∧ v.time = s.time ∧ v.port = s.port ∧
    (s.drain.state = .running → s.drainTags = [] → v.drain = { s.drain with
      state := .ready, inFlight := [], q := s.drain.p, offered := none, stopCause := none, endState := none }) ∧
    (s.drain.state = .running → s.drainTags ≠ [] → v.drain = { s.drain with
      state := .stopping, offered := none, stopCause := some .session, endState := some .ready }) ∧
    (s.drain.state ≠ .running → v.drain = s.drain)

/-- A fire, taken whole (R73): the marker joins the ring, the session is FIRED, or CAPTURED with Q of 0, the guards come
into force, the sequencer is DONE with k and c kept, and the events are pending, and nothing else changes. With the last
number next_seq rises to 4,294,967,296 and SEQ_EXHAUSTED is pending too; a CAPTURED session stays so, and a FIRED one is
STOPPED with reason EXHAUSTED after the fire, the sequencer IDLE, the slot waits of its list released, a RUNNING drain
stopped (R47). SEQ_FIRE fires an ARMED session with cause MANUAL, and is BAD_STATE, with nothing changed, in every other
(R95). -/
def Obligations.FireTakenWhole : Prop :=
  (∀ (cause : Cause) (s : State),
    (s.ring.nextSeq ≠ 4294967295 →
      fire cause s = { s with
        ring := { s.ring with
          recs := s.ring.recs ++ [⟨s.ring.nextSeq, s.time.counter, .trigger cause⟩], nextSeq := s.ring.nextSeq + 1 }
        session := { s.session with
          state := if s.session.q = 0 then .captured else .fired, post := 0, guardsInForce := true }
        seqr := { s.seqr with state := .done, elapsed := 0 }
        events := { s.events with pending :=
          s.events.pending ||| (if s.ring.recs.length + 1 = s.ring.threshold then Event.ringThreshold.set else 0) |||
            Event.fired.set ||| (if s.session.q = 0 then Event.captured.set else 0) } }) ∧
    ∀ u : State, s.ring.nextSeq = 4294967295 →
      u = { s with
        ring := { s.ring with
          recs := s.ring.recs ++ [⟨4294967295, s.time.counter, .trigger cause⟩], nextSeq := 4294967296 }
        session := { s.session with
          state := if s.session.q = 0 then .captured else .stopped
          stopReason := if s.session.q = 0 then s.session.stopReason else some .exhausted
          post := 0, guardsInForce := true }
        seqr := { s.seqr with state := .done, elapsed := 0 }
        events := { s.events with pending :=
          s.events.pending ||| (if s.ring.recs.length + 1 = s.ring.threshold then Event.ringThreshold.set else 0) |||
            Event.fired.set ||| (if s.session.q = 0 then Event.captured.set else 0) ||| Event.seqExhausted.set } } →
      (s.session.q = 0 → fire cause s = u) ∧
      (s.session.q ≠ 0 →
        fire cause s = { releaseSlots false s.ring.slotList u with
          seqr := { s.seqr with state := .idle, stage := 0, count := 0, elapsed := 0 }
          drain := (fire cause s).drain } ∧
        (s.drain.state = .running → s.drainTags = [] → (fire cause s).drain = { s.drain with
          state := .ready, inFlight := [], q := s.drain.p, offered := none, stopCause := none, endState := none }) ∧
        (s.drain.state = .running → s.drainTags ≠ [] → (fire cause s).drain = { s.drain with
          state := .stopping, offered := none, stopCause := some .session, endState := some .ready }) ∧
        (s.drain.state ≠ .running → (fire cause s).drain = s.drain))) ∧
  ∀ (f : Frame) (s : State), s.resetHeld = false →
    (s.session.state = .armed → exec (.seqFire f) s = .next (answered .ok [] (fire .manual (framed f s)))) ∧
    (s.session.state ≠ .armed → exec (.seqFire f) s = .next (answered .badState [] (framed f s)))

/-- Which writes count, and how a count is taken. A write counts in an ARMED session with the sequencer COUNTING when its hit set
holds the window of the current stage, or, for ANY, is not empty (R89). A count is taken by R90: below the target c rises; at
the target of a stage before the last, the next stage is entered with c and e at 0; at the target of the last, the session
fires with cause SEQUENCE and that stage. -/
def Obligations.CountTaken : Prop :=
  (∀ (s : State) (hits : Set16),
    (∀ w, (s.stageAt s.seqr.stage).window = some w →
      (s.counts hits = true ↔
        s.session.state = .armed ∧ s.seqr.state = .counting ∧ hits.getLsbD w.toNat = true)) ∧
    ((s.stageAt s.seqr.stage).window = none →
      (s.counts hits = true ↔
        s.session.state = .armed ∧ s.seqr.state = .counting ∧ ∃ i < 16, hits.getLsbD i = true))) ∧
  ∀ s : State,
    (s.seqr.count + 1 < (s.stageAt s.seqr.stage).target →
      takeCount s = { s with seqr := { s.seqr with count := s.seqr.count + 1 } }) ∧
    ((s.stageAt s.seqr.stage).target ≤ s.seqr.count + 1 → s.seqr.stage + 1 < s.seqr.length →
      takeCount s = { s with seqr := { s.seqr with stage := s.seqr.stage + 1, count := 0, elapsed := 0 } }) ∧
    ((s.stageAt s.seqr.stage).target ≤ s.seqr.count + 1 → s.seqr.length ≤ s.seqr.stage + 1 →
      takeCount s = fire (.sequence s.seqr.stage) { s with seqr := { s.seqr with count := s.seqr.count + 1 } })

/-! ### Time -/

/-- A tick (R152, R92): the 48-bit counter rises and wraps, a new tick begins with the stored prescale, and a COUNTING
sequencer whose stage has a limit counts it; the tick that reaches the limit restarts the sequence and raises STAGE_TIMEOUT.
Both rows of the table are this one event (log entry 6), and on an empty queue a step is one period of REFCLK, the last
period of a tick being the tick (log entry 2): these two are the model's choice. -/
def Obligations.TicksAndPeriods : Prop :=
  (∀ (s : State) (c : Instr) (tm : TimeBase), s.resetHeld = false → c = .tick ∨ c = .stageExpiry →
    tm = { s.time with counter := s.time.counter + 1, periods := 0, tickPrescale := s.time.prescale } →
    (s.seqr.state ≠ .counting ∨ (s.stageAt s.seqr.stage).within = 0 → exec c s = .next { s with time := tm }) ∧
    (s.seqr.state = .counting → s.seqr.elapsed + 1 < (s.stageAt s.seqr.stage).within →
      exec c s = .next { s with time := tm, seqr := { s.seqr with elapsed := s.seqr.elapsed + 1 } }) ∧
    (s.seqr.state = .counting → (s.stageAt s.seqr.stage).within ≠ 0 →
      (s.stageAt s.seqr.stage).within ≤ s.seqr.elapsed + 1 →
      exec c s = .next { s with
        time := tm, seqr := { s.seqr with stage := 0, count := 0, elapsed := 0 }
        events := { s.events with pending := s.events.pending ||| Event.stageTimeout.set } })) ∧
  ∀ s : State, s.pending = [] →
    (s.resetHeld = true → step s = .next s) ∧
    (s.resetHeld = false → s.time.periods < s.time.tickPrescale.toNat →
      step s = .next { s with time := { s.time with periods := s.time.periods + 1 } }) ∧
    (s.resetHeld = false → s.time.tickPrescale.toNat ≤ s.time.periods → step s = exec .tick s)

/-! ### Responses of the memory -/

/-- The memory response to a forwarded host request is the host's answer in the same event (R147): the status, the data of a
read answered OK, and for a write the outcome of its record through the outcome map (R49). It raises no event, is not
offered to the fault record, and does not involve the hold table. The tag is no longer outstanding, and the credit it frees is
there for the grants at the end of the event (R146). The first clauses spell how a tag stops being outstanding, and that a
WRITE record takes outcome OK or FAULT and keeps all else, while no other record changes (R49). -/
def Obligations.HostRequestAnswered : Prop :=
  (∀ (tag : MemTag) (s : State), closeTag tag s =
    { s with mem := { s.mem with outstanding := s.mem.outstanding.filter fun o => o.req.tag != tag } }) ∧
  (∀ (seq : Nat) (time : Time) (w : WriteInfo) (st x : RecOutcome) (b : Bool) (n : Nat) (c : Cause),
    outcomeOf .ok = .ok ∧ outcomeOf .fault = .fault ∧
    (⟨seq, time, .write w st b⟩ : Rec).setOutcome x = ⟨seq, time, .write w x b⟩ ∧
    (⟨seq, time, .refused w⟩ : Rec).setOutcome x = ⟨seq, time, .refused w⟩ ∧
    (⟨seq, time, .gap n⟩ : Rec).setOutcome x = ⟨seq, time, .gap n⟩ ∧
    (⟨seq, time, .trigger c⟩ : Rec).setOutcome x = ⟨seq, time, .trigger c⟩) ∧
  ∀ (tag : HostTag) (o : Outstanding) (status : MemStatus) (data : List Byte) (s : State),
    s.answering o (tag.setWidth 8) → o.req.tag = tag.setWidth 8 →
    (o.req.kind = .read → status = .ok → data.length = o.req.len) →
    ∃ t, exec (.memoryResponse tag status data) s = .next t ∧
      t = settle { s with
        host := t.host, ring := t.ring
        mem := { s.mem with outstanding := s.mem.outstanding.filter fun x => x.req.tag != tag.setWidth 8 } } ∧
      t.host = { s.host with
        credit := s.host.credit + 1, inPart := s.host.inPart.erase tag
        sent := s.host.sent ++ [.response tag (match status with | .ok => .ok | .fault => .fault)
          (if o.req.kind = .read ∧ status = .ok then data else [])] } ∧
      (o.req.kind = .read ∨ s.ring.outcomeMap.find? (fun x => x.1 == tag) = none → t.ring = s.ring) ∧
      (∀ seq, o.req.kind = .write → s.ring.outcomeMap.find? (fun x => x.1 == tag) = some (tag, seq) →
        t.ring = { s.ring with
          outcomeMap := s.ring.outcomeMap.filter fun x => x.1 != tag
          recs := s.ring.recs.map fun r => if r.seq = seq then r.setOutcome (outcomeOf status) else r }) ∧
      t.events = s.events ∧ t.hold = s.hold ∧ t.session = s.session ∧ t.seqr = s.seqr ∧ t.windows = s.windows ∧
      t.rollback = s.rollback ∧ t.ingress = s.ingress ∧ t.time = s.time ∧ t.port = s.port ∧ t.engaged = s.engaged ∧
      t.mem.credit = s.mem.credit

/-- A response whose tag is not outstanding is dropped (R148): STRAY_RESPONSE and the offer to the fault record, and nothing
else, whichever row of the table it comes by. A response that carries the tag of an outstanding request is that request's
own response, by whichever of the six response rows it comes: that the rows are interchangeable by tag is the model's choice,
read from R146 and R148 (log entry 7). -/
def Obligations.StrayResponseDropped : Prop :=
  (∀ (tag : MemTag) (status : MemStatus) (data : List Byte) (c : Instr) (s : State), s.resetHeld = false →
    (∀ o ∈ s.mem.outstanding, o.req.tag ≠ tag) →
    (c = .strayResponse tag status data ∨
      (∃ h : HostTag, tag = h.setWidth 8 ∧ c = .memoryResponse h status data) ∨
      (∃ i : BitVec 3, tag = BitVec.ofNat 8 (64 + i.toNat) ∧ c = .prereadResponse i status data) ∨
      (tag = 72 ∧ c = .checkReadResponse status data) ∨ (tag = 72 ∧ c = .restoreResponse status) ∨
      ∃ n : BitVec 2, tag = BitVec.ofNat 8 (73 + n.toNat) ∧ c = .drainResponse n status) →
    exec c s = .next { s with events := { s.events with
      pending := s.events.pending ||| Event.strayResponse.set
      fault := offered s.events.fault .strayResponse .memory tag none s.time.counter } }) ∧
  (∀ (h : HostTag) (status : MemStatus) (data : List Byte) (s : State),
    exec (.strayResponse (h.setWidth 8) status data) s = exec (.memoryResponse h status data) s) ∧
  (∀ (i : BitVec 3) (status : MemStatus) (data : List Byte) (s : State),
    exec (.strayResponse (BitVec.ofNat 8 (64 + i.toNat)) status data) s = exec (.prereadResponse i status data) s) ∧
  (∀ (status : MemStatus) (data : List Byte) (s : State),
    exec (.strayResponse 72 status data) s = exec (.checkReadResponse status data) s) ∧
  (∀ (status : MemStatus) (s : State), exec (.strayResponse 72 status []) s = exec (.restoreResponse status) s) ∧
  ∀ (n : BitVec 2) (status : MemStatus) (s : State),
    exec (.strayResponse (BitVec.ofNat 8 (73 + n.toNat)) status []) s = exec (.drainResponse n status) s

/-- The check read's response (R106, R107, R111): an equal span queues the restore and then releases the entry; an unequal
one counts a conflict and releases, and the engine advances under CHECK_SKIP and ends with CONFLICT under CHECK_STOP; a FAULT
ends with FAULT and its offer; an ABORTING engine discards the response and ends with its pending result. The first clauses
spell these four: the release walks the parked list of the entry in CHECKING (R34, R36), the restore is that of the record at
the cursor (R108), an end leaves IDLE with the result and ROLLBACK_DONE (R99), and the offer names tag 72. -/
def Obligations.CheckReadAnswered : Prop :=
  (∀ s : State,
    (∀ i line parked, i < 8 → s.entry i = .owned line .checking parked → (∀ j < i, (s.entry j).isChecking = false) →
      releaseChecking s = walk i parked s) ∧
    (∀ r w st b old, s.ring.find s.rollback.cursor = some r → r.body = .write w st b → w.oldData = some old →
      queueRestore s = { s with
        rollback := { s.rollback with state := .restoring }
        mem := { s.mem with queue := s.mem.queue ++
          [{ kind := .write, tag := 72, addr := w.addr, len := w.len, data := old }] } }) ∧
    (∀ result, endRollback result s = { s with
      rollback := { s.rollback with state := .idle, result := result, pendingResult := none }
      events := { s.events with pending := s.events.pending ||| Event.rollbackDone.set } }) ∧
    ∀ addr, rollbackFault addr s = { s with events := { s.events with
      fault := offered s.events.fault .rollbackFault .memory 72 (some addr) s.time.counter } }) ∧
  ∀ (o : Outstanding) (data : List Byte) (s s' : State),
    s.answering o 72 → o.req.kind = .read → o.req.tag = 72 → o.req.len = 64 → s' = closeTag 72 s →
    (∀ r w st b, s.rollback.state = .checking → data.length = 64 → s.ring.find s.rollback.cursor = some r →
      r.body = .write w st b →
      ((data.drop (w.addr.toNat % 64)).take w.len = w.newData →
        exec (.checkReadResponse .ok data) s = .next (settle (releaseChecking (queueRestore s')))) ∧
      ((data.drop (w.addr.toNat % 64)).take w.len ≠ w.newData → s.rollback.mode = .checkSkip →
        exec (.checkReadResponse .ok data) s = .next (settle (advance (releaseChecking
          { s' with rollback := { s.rollback with conflicts := s.rollback.conflicts + 1 } })))) ∧
      ((data.drop (w.addr.toNat % 64)).take w.len ≠ w.newData → s.rollback.mode = .checkStop →
        exec (.checkReadResponse .ok data) s = .next (settle (endRollback .conflict (releaseChecking
          { s' with rollback := { s.rollback with conflicts := s.rollback.conflicts + 1 } }))))) ∧
    (s.rollback.state = .checking →
      exec (.checkReadResponse .fault data) s =
        .next (settle (rollbackFault o.req.addr (endRollback .fault (releaseChecking s'))))) ∧
    (∀ status p, s.rollback.state = .aborting → s.rollback.pendingResult = some p → (status = .ok → data.length = 64) →
      exec (.checkReadResponse status data) s = .next (settle { s' with
        rollback := { s.rollback with
          state := .idle, pendingResult := none
          result := match p with | .aborted => .aborted | .cleared => .cleared }
        events := { s.events with pending := s.events.pending ||| Event.rollbackDone.set } }))

/-- The restore's response (R108, R109, R111): OK sets the restored flag of the record at the cursor, if the ring still holds
it, and counts it, and then the engine advances, or, ABORTING, ends with its pending result; FAULT leaves flag and count,
ends the rollback, and is offered to the fault record with the record's address. The first clause spells the flag: a WRITE
record takes restored yes and keeps all else, and no other record changes. -/
def Obligations.RestoreAnswered : Prop :=
  (∀ (seq : Nat) (time : Time) (w : WriteInfo) (st : RecOutcome) (b : Bool) (n : Nat) (c : Cause),
    (⟨seq, time, .write w st b⟩ : Rec).setRestored = ⟨seq, time, .write w st true⟩ ∧
    (⟨seq, time, .refused w⟩ : Rec).setRestored = ⟨seq, time, .refused w⟩ ∧
    (⟨seq, time, .gap n⟩ : Rec).setRestored = ⟨seq, time, .gap n⟩ ∧
    (⟨seq, time, .trigger c⟩ : Rec).setRestored = ⟨seq, time, .trigger c⟩) ∧
  ∀ (o : Outstanding) (s s' : State),
    s.answering o 72 → o.req.kind = .write → o.req.tag = 72 → s' = closeTag 72 s →
    (s.rollback.state = .restoring → exec (.restoreResponse .ok) s = .next (settle (advance { s' with
      rollback := { s.rollback with restored := s.rollback.restored + 1 }
      ring := { s.ring with recs := s.ring.recs.map fun r =>
        if r.seq = s.rollback.cursor then r.setRestored else r } }))) ∧
    (s.rollback.state = .restoring → exec (.restoreResponse .fault) s = .next (settle { s' with
      rollback := { s.rollback with state := .idle, result := .fault, pendingResult := none }
      events := { s.events with
        pending := s.events.pending ||| Event.rollbackDone.set
        fault := offered s.events.fault .rollbackFault .memory 72 (some o.req.addr) s.time.counter } })) ∧
    (∀ p, s.rollback.state = .aborting → s.rollback.pendingResult = some p →
      exec (.restoreResponse .ok) s = .next (settle { s' with
        rollback := { s.rollback with
          state := .idle, pendingResult := none, restored := s.rollback.restored + 1
          result := match p with | .aborted => .aborted | .cleared => .cleared }
        ring := { s.ring with recs := s.ring.recs.map fun r =>
          if r.seq = s.rollback.cursor then r.setRestored else r }
        events := { s.events with pending := s.events.pending ||| Event.rollbackDone.set } }) ∧
      exec (.restoreResponse .fault) s = .next (settle { s' with
        rollback := { s.rollback with
          state := .idle, pendingResult := none
          result := match p with | .aborted => .aborted | .cleared => .cleared }
        events := { s.events with
          pending := s.events.pending ||| Event.rollbackDone.set
          fault := offered s.events.fault .rollbackFault .memory 72 (some o.req.addr) s.time.counter } }))

/-- A drain line write's response (R123, R128, R132): its tag is free; OK is credited to its item, which may retire; FAULT
raises DRAIN_FAULT, is offered to the fault record, marks the item and brings FAULTING, the offered line withdrawn. After a
clear the response retires nothing and the state does not change by it. With the last outstanding tag answered a STOPPING
drain takes its end state and a FAULTING one is FAULTED, the in-flight list emptied and q at p (R129, R131, R132). -/
def Obligations.DrainLineAnswered : Prop :=
  (∀ s : State,
    (s.drainTags ≠ [] ∨ s.drain.state ≠ .stopping ∧ s.drain.state ≠ .faulting → drainQuiesce s = s) ∧
    (s.drainTags = [] → s.drain.state = .stopping → s.drain.endState = some .off →
      drainQuiesce s = { s with drain := State.reset.drain }) ∧
    (s.drainTags = [] → s.drain.state = .stopping → s.drain.endState = some .ready →
      drainQuiesce s = { s with drain := { s.drain with
        state := .ready, inFlight := [], q := s.drain.p, offered := none, stopCause := none, endState := none } }) ∧
    (s.drainTags = [] → s.drain.state = .faulting →
      drainQuiesce s = { s with drain := { s.drain with
        state := .faulted, inFlight := [], q := s.drain.p, offered := none, stopCause := none, endState := none } })) ∧
  ∀ (n : BitVec 2) (o : Outstanding) (k : Nat) (s s' : State),
    s.answering o (BitVec.ofNat 8 (73 + n.toNat)) → o.req.kind = .write → o.req.tag = BitVec.ofNat 8 (73 + n.toNat) →
    o.item = some k → s' = closeTag (BitVec.ofNat 8 (73 + n.toNat)) s →
    (s.drain.stopCause ≠ some .clear →
      exec (.drainResponse n .ok) s = .next (settle (drainQuiesce (retireAll { s' with drain := { s.drain with
        inFlight := s.drain.inFlight.map fun it => if it.first = k then { it with okCount := it.okCount + 1 } else it } }))) ∧
      exec (.drainResponse n .fault) s = .next (settle (drainQuiesce { s' with
        events := { s.events with
          pending := s.events.pending ||| Event.drainFault.set
          fault := offered s.events.fault .drainFault .memory (BitVec.ofNat 8 (73 + n.toNat)) (some o.req.addr)
            s.time.counter }
        drain := { s.drain with
          state := .faulting, offered := none, stopCause := none, endState := none
          inFlight := s.drain.inFlight.map fun it => if it.first = k then { it with faulted := true } else it } }))) ∧
    (s.drain.stopCause = some .clear →
      exec (.drainResponse n .ok) s = .next (settle (drainQuiesce s')) ∧
      exec (.drainResponse n .fault) s = .next (settle (drainQuiesce { s' with events := { s.events with
        pending := s.events.pending ||| Event.drainFault.set
        fault := offered s.events.fault .drainFault .memory (BitVec.ofNat 8 (73 + n.toNat)) (some o.req.addr)
          s.time.counter } })))

/-- Retirement takes complete items from the front, in order (R124): each leaves the list and its lines move from it into u
with p advancing; a record's retirement takes the oldest record from the ring, a PAD's none; and it stops at the first item
that is not complete, so that nothing retires where the front item is not. That a PAD is complete at one OK, whatever the lines
it fills, is the model's choice (log entry 19). SPILL_WATERMARK is raised in an event in which u increases and ends at or above
the watermark (R125). The freed slots are offered to the ring-slot arbiter (R54); that they are offered once, after all
retirements of the event, is the model's choice (log entry 26). -/
def Obligations.RetirementFromFront : Prop :=
  (∀ s t : State, t = retire s.drain.inFlight s →
    (s.drain.u < t.drain.u ∧ t.drain.watermark ≤ t.drain.u →
      retireAll s = serveSlots { t with events := { t.events with
        pending := t.events.pending ||| Event.spillWatermark.set } }) ∧
    (t.drain.u ≤ s.drain.u ∨ t.drain.u < t.drain.watermark → retireAll s = serveSlots t)) ∧
  (∀ s : State,
    (∀ it, s.drain.inFlight.head? = some it → it.faulted = true ∨ it.okCount < (if it.seq = none then 1 else it.lines)) →
    retire s.drain.inFlight s = s) ∧
  ∀ (whole : List DrainItem) (rest : List DrainItem) (s : State),
    (∀ it ∈ whole, it.faulted = false ∧ (if it.seq = none then 1 else it.lines) ≤ it.okCount) →
    (∀ it, rest.head? = some it → it.faulted = true ∨ it.okCount < (if it.seq = none then 1 else it.lines)) →
    s.drain.inFlight = whole ++ rest → s.drain.p < s.drain.size →
    retire (whole ++ rest) s = { s with
      ring := { s.ring with recs := s.ring.recs.drop (whole.filter fun it => it.seq.isSome).length }
      drain := { s.drain with
        inFlight := rest
        p := (s.drain.p + (whole.map DrainItem.lines).sum) % s.drain.size
        u := s.drain.u + (whole.map DrainItem.lines).sum } }

/-- The end of an event (R122, R144, R145): requests leave on the memory link and become outstanding, the path issue queue
losing only its head items, unaltered and in order, and nothing outside the memory link and the drain's placement changes. A
requester that alone is ready is granted, and of two the one not granted last; with none ready there is no grant. The drain
offers before the first grant, and the grants go on while a credit is free and a requester is ready (R145). That this is
done once, at the end of an event, is the model's choice (log entry 16). -/
def Obligations.SettleIssuesInOrder : Prop :=
  (∀ s t : State, t = offerNext s →
    (s.mem.credit ≤ s.mem.outstanding.length ∨ t.grantee = none → settle s = t) ∧
    (s.mem.outstanding.length < s.mem.credit → t.grantee = some .drain → settle s = settle (grantDrain t)) ∧
    ∀ m rest, s.mem.outstanding.length < s.mem.credit → t.grantee = some .path → t.mem.queue = m :: rest →
      settle s = settle { t with mem := { t.mem with
        queue := rest, outstanding := t.mem.outstanding ++ [{ req := m, item := none }], sent := t.mem.sent ++ [m]
        lastGrant := .path } }) ∧
  (∀ s : State, (∀ m ∈ s.mem.queue, isDrainTag m.tag = false) →
    ∃ ms : List MemReq,
      (settle s).mem.sent = s.mem.sent ++ ms ∧
      (settle s).mem.outstanding.map Outstanding.req = s.mem.outstanding.map Outstanding.req ++ ms ∧
      s.mem.queue = ms.filter (fun m => !isDrainTag m.tag) ++ (settle s).mem.queue ∧
      (settle s).mem.credit = s.mem.credit ∧
      settle s = { s with
        mem := (settle s).mem
        drain := { s.drain with
          inFlight := (settle s).drain.inFlight, q := (settle s).drain.q, offered := (settle s).drain.offered } } ∧
      (s.drain.state ≠ .running → s.drain.offered = none → (settle s).drain = s.drain)) ∧
  (∀ s : State, s.mem.queue = [] →
    (s.drain.offered = none → s.grantee = none) ∧ (s.drain.offered ≠ none → s.grantee = some .drain)) ∧
  ∀ (s : State) (m : MemReq) (rest : List MemReq), s.mem.queue = m :: rest →
    (s.drain.offered = none → s.grantee = some .path) ∧
    (s.drain.offered ≠ none → s.mem.lastGrant = .path → s.grantee = some .drain) ∧
    (s.drain.offered ≠ none → s.mem.lastGrant = .drain → s.grantee = some .path)

/-- The drain's lines. A record is placed where there is room, after a PAD where it does not fit before the wrap, or not at all
(R120, R121). A RUNNING drain with fewer than four tags outstanding offers the next line of its first item not fully issued,
else the first line of what it places for the next record whose outcome is known (R121, R122); a granted line takes the lowest
drain tag not outstanding, and the next is offered (R122). The bytes of a record are its header, its old data or zeros, its new data
and zeros, in lines of 64; those of a PAD its header and zeros (R172, R173). Headers have their fields at the same places in either
byte order. That an item holds its bytes from its placement on is the model's choice (log entry 18). -/
def Obligations.SpillLines : Prop :=
  (∀ (d : Drain) (r : Rec) (L room : Nat) (it pad : DrainItem),
    L = r.lineCount → room = d.size - d.u - (d.inFlight.map DrainItem.lines).sum →
    it = { first := if L ≤ d.size - d.q then d.q else 0, lines := L, seq := some r.seq, bytes := r.spillRun
           issued := 0, okCount := 0, faulted := false } →
    pad = { first := d.q, lines := d.size - d.q, seq := none, bytes := padRun (d.size - d.q)
            issued := 0, okCount := 0, faulted := false } →
    (L ≤ d.size - d.q → L ≤ room →
      d.place r = { d with inFlight := d.inFlight ++ [it], q := (d.q + L) % d.size }) ∧
    (d.size - d.q < L → d.size - d.q + L ≤ room → d.place r = { d with inFlight := d.inFlight ++ [pad, it], q := L }) ∧
    (room < (if L ≤ d.size - d.q then L else d.size - d.q + L) → d.place r = d)) ∧
  (∀ s : State,
    (s.drain.state ≠ .running ∨ s.drain.offered ≠ none ∨ 4 ≤ s.drainTags.length → offerNext s = s) ∧
    (s.drain.state = .running → s.drain.offered = none → s.drainTags.length < 4 →
      (∀ whole it rest, s.drain.inFlight = whole ++ it :: rest →
        (∀ x ∈ whole, (if x.seq = none then 1 else x.lines) ≤ x.issued) →
        it.issued < (if it.seq = none then 1 else it.lines) →
        ∀ line : OfferedLine, line =
          { item := it.first
            addr := s.drain.base + BitVec.ofNat 40 (64 * ((it.first + it.issued) % s.drain.size))
            data := (it.bytes.drop (64 * it.issued)).take 64 } →
          offerNext s = { s with drain := { s.drain with offered := some line } }) ∧
      ∀ next, (∀ x ∈ s.drain.inFlight, (if x.seq = none then 1 else x.lines) ≤ x.issued) →
        (s.drain.inFlight = [] → next = s.ring.recs.head?) →
        (∀ whole it n, s.drain.inFlight = whole ++ [it] → it.seq = some n → next = s.ring.find (n + 1)) →
        (∀ it, s.drain.inFlight.getLast? = some it → it.seq ≠ none) →
        ((∀ r, next = some r → r.isPending = true) → offerNext s = s) ∧
        ∀ r d, next = some r → r.isPending = false → d = s.drain.place r →
          offerNext s = { s with drain := { d with
            offered := (d.inFlight.drop s.drain.inFlight.length).head?.map fun it =>
              { item := it.first, addr := s.drain.base + BitVec.ofNat 40 (64 * (it.first % s.drain.size))
                data := it.bytes.take 64 } } }) ∧
    ∀ (o : OfferedLine) (t : MemTag), s.drain.offered = some o → isDrainTag t = true → t ∉ s.drainTags →
      (∀ x, isDrainTag x = true → x.toNat < t.toNat → x ∈ s.drainTags) →
      grantDrain s = offerNext { s with
        drain := { s.drain with
          offered := none
          inFlight := s.drain.inFlight.map fun it =>
            if it.first = o.item then { it with issued := it.issued + 1 } else it }
        mem := { s.mem with
          outstanding := s.mem.outstanding ++
            [{ req := { kind := .write, tag := t, addr := o.addr, len := 64, data := o.data }, item := some o.item }]
          sent := s.mem.sent ++ [{ kind := .write, tag := t, addr := o.addr, len := 64, data := o.data }]
          lastGrant := .drain } }) ∧
  (∀ (seq : Nat) (time : Time) (w : WriteInfo) (st : RecOutcome) (b : Bool) (L : Nat),
    1 ≤ w.len → w.len ≤ 64 → w.newData.length = w.len → (∀ old, w.oldData = some old → old.length = w.len) →
    L = (if w.len ≤ 16 then 1 else if w.len ≤ 48 then 2 else 3) →
    ∀ r : Rec, r = ⟨seq, time, .write w st b⟩ ∨ r = ⟨seq, time, .refused w⟩ →
      r.lineCount = L ∧
      r.spillRun = r.header.bytesBy leBytes ++ w.oldData.getD (List.replicate w.len 0) ++ w.newData ++
        List.replicate (64 * L - 32 - 2 * w.len) 0) ∧
  (∀ (seq : Nat) (time : Time) (n : Nat) (c : Cause) (r : Rec),
    r = ⟨seq, time, .gap n⟩ ∨ r = ⟨seq, time, .trigger c⟩ →
    r.lineCount = 1 ∧ r.spillRun = r.header.bytesBy leBytes ++ List.replicate 32 0) ∧
  (∀ n, padRun n = leBytes 1 5 ++ List.replicate 28 0 ++ leBytes 1 n ++ List.replicate 34 0) ∧
  (∀ (bytes : Nat → Nat → List Byte) (seq : Nat) (time : Time) (w : WriteInfo) (st : RecOutcome) (b : Bool)
    (n : Nat) (head : Nat → List Byte), (∀ k, bytes k 0 = List.replicate k 0) →
    (∀ kind, head kind = bytes 1 kind ++ bytes 1 w.len ++ bytes 1 w.source.toNat ++ bytes 1 w.tag.toNat ++ bytes 4 seq ++
      bytes 6 time.toNat ++ bytes 5 w.addr.toNat) →
    (⟨seq, time, .write w st b⟩ : Rec).header.bytesBy bytes = head 1 ++
      bytes 1 (match st with | .pending => 0 | .ok => 1 | .fault => 2) ++
      bytes 1 ((if w.oldData = none then 1 else 0) + if b then 2 else 0) ++ [0, 0] ++ bytes 2 w.windows.toNat ++
      List.replicate 7 0 ∧
    (⟨seq, time, .refused w⟩ : Rec).header.bytesBy bytes = head 2 ++ [0] ++
      bytes 1 (if w.oldData = none then 1 else 0) ++ [0, 0] ++ bytes 2 w.windows.toNat ++ List.replicate 7 0 ∧
    (⟨seq, time, .gap n⟩ : Rec).header.bytesBy bytes = bytes 1 3 ++ [0, 0, 0] ++ bytes 4 seq ++ bytes 6 time.toNat ++
      List.replicate 11 0 ++ bytes 4 n ++ List.replicate 3 0 ∧
    (⟨seq, time, .trigger (.sequence n)⟩ : Rec).header.bytesBy bytes = bytes 1 4 ++ [0, 0, 0] ++ bytes 4 seq ++
      bytes 6 time.toNat ++ List.replicate 7 0 ++ bytes 1 1 ++ bytes 1 n ++ List.replicate 9 0 ∧
    (⟨seq, time, .trigger .manual⟩ : Rec).header.bytesBy bytes = bytes 1 4 ++ [0, 0, 0] ++ bytes 4 seq ++
      bytes 6 time.toNat ++ List.replicate 7 0 ++ bytes 1 2 ++ List.replicate 10 0) ∧
  ∀ n v k, k < n → (leBytes n v).length = n ∧ (leBytes n v).getD k 0 = BitVec.ofNat 8 (v / 256 ^ k) ∧
    beBytes n v = (leBytes n v).reverse

/-! ### Frames of the management port -/

/-- Three kinds of frame execute nothing (R165, cases 1 to 3): one with no complete byte keeps the held answer, MISO having
carried the first bits of the held outcome code, most significant first (R164); one with an unassigned code leaves UNKNOWN
with no result; one with fewer argument bytes than the table of 10.6 asks for leaves SHORT with no result, and no state of
any block changes. -/
def Obligations.FramesThatExecuteNothing : Prop :=
  (∀ (count : Fin 8) (s : State), s.resetHeld = false →
    exec (.emptyFrame count) s = .next { s with port := { s.port with
      inFrame := false, rx := { received := [], bitCount := 0, shift := 0 }, awaitRise := false
      shifted := { bytes := []
                   bits := (List.range count.val).map fun k => s.port.heldOutcome.code.getLsbD (7 - k) } } }) ∧
  (∀ (code : Byte) (f : Frame) (s : State), s.resetHeld = false →
    exec (.unknownCommand code f) s = .next (answered .unknown [] (framed f s))) ∧
  ∀ (code : Byte) (f : Frame) (s : State), s.resetHeld = false → code ∈ assignedCodes →
    f.args.length < argCount code → exec (decodeCode code f) s = .next (answered .short [] (framed f s))

/-- During a frame MISO carries the outcome code held when it began, then the held result, then zeros, one byte for each byte
of the frame, and the first bits, most significant first, of the next (R164). The outcome codes are those of R166. -/
def Obligations.MisoCarriesHeldAnswer : Prop :=
  [PortOutcome.none, .ok, .unknown, .short, .badArg, .badState, .busy, .notFound].map PortOutcome.code =
    [0, 1, 2, 3, 4, 5, 6, 7] ∧
  ∀ (f : Frame) (s : State),
    (framed f s).port.shifted.bytes =
      ((s.port.heldOutcome.code :: s.port.heldResult) ++ List.replicate (1 + f.args.length) 0).take (1 + f.args.length) ∧
    f.left ≤ 7 ∧ (framed f s).port.shifted.bits.length = f.left ∧
      ∀ k < f.left, (framed f s).port.shifted.bits.getD k false =
        ((s.port.heldOutcome.code :: s.port.heldResult).getD (1 + f.args.length) 0).getLsbD (7 - k)

/-- The commands without an argument that change no state, and what they answer (11.4): NOP and IDENT (R167), STATUS (R168), RING_STATUS
(R60), SPILL_STATUS (R127), ROLLBACK_STATUS (R114), TIME_READ (R153) and EVENT_READ (R158). The codes are those of 11.2. -/
def Obligations.StateReads : Prop :=
  ([SessionState.idle, .running, .armed, .fired, .captured, .stopped].map SessionState.code = [0, 1, 2, 3, 4, 5] ∧
    [none, some StopReason.command, some .exhausted].map stopReasonCode = [0, 1, 2] ∧
    [SeqState.idle, .counting, .done].map SeqState.code = [0, 1, 2] ∧
    [DrainState.off, .ready, .running, .stopping, .faulting, .faulted].map DrainState.code = [0, 1, 2, 3, 4, 5] ∧
    [RbState.idle, .claiming, .checking, .restoring, .aborting].map RbState.code = [0, 1, 2, 3, 4] ∧
    [RbResult.none, .done, .conflict, .fault, .aborted, .cleared].map RbResult.code = [0, 1, 2, 3, 4, 5]) ∧
  ∀ (f : Frame) (s : State), s.resetHeld = false →
    exec (.nop f) s = .next (answered .ok [] (framed f s)) ∧
    exec (.ident f) s = .next (answered .ok [0x5A, 0x17, 0x01] (framed f s)) ∧
    exec (.status f) s = .next (answered .ok
      (beBytes 1 (if s.engaged then 1 else 0) ++ beBytes 1 s.session.state.code ++
        beBytes 1 (stopReasonCode s.session.stopReason) ++ beBytes 1 s.seqr.state.code ++ beBytes 1 s.seqr.stage ++
        beBytes 2 s.seqr.count ++ beBytes 2 s.ring.recs.length ++ beBytes 4 s.ring.gap ++ beBytes 1 s.drain.state.code ++
        beBytes 1 s.rollback.state.code ++ beBytes 1 (s.hold.entries.toList.filter fun e => !e.isFree).length ++
        beBytes 2 s.events.pending.toNat ++ beBytes 1 s.mem.credit) (framed f s)) ∧
    exec (.ringStatus f) s = .next (answered .ok
      (beBytes 2 s.ring.recs.length ++ beBytes 4 ((s.ring.recs.head?.map Rec.seq).getD 0) ++
        beBytes 4 ((s.ring.recs.getLast?.map Rec.seq).getD 0) ++ beBytes 5 s.ring.nextSeq ++ beBytes 4 s.ring.gap ++
        beBytes 2 (512 - s.ring.recs.length)) (framed f s)) ∧
    exec (.spillStatus f) s = .next (answered .ok
      (beBytes 1 s.drain.state.code ++ beBytes 3 s.drain.p ++ beBytes 3 s.drain.c ++ beBytes 3 s.drain.u ++
        beBytes 3 s.drain.size ++ beBytes 3 s.drain.watermark) (framed f s)) ∧
    exec (.rollbackStatus f) s = .next (answered .ok
      (beBytes 1 s.rollback.state.code ++ beBytes 1 s.rollback.result.code ++ beBytes 4 s.rollback.cursor ++
        beBytes 2 s.rollback.restored ++ beBytes 2 s.rollback.conflicts ++ beBytes 2 s.rollback.skipped) (framed f s)) ∧
    exec (.timeRead f) s = .next (answered .ok (beBytes 6 s.time.counter.toNat) (framed f s)) ∧
    exec (.eventRead f) s = .next (answered .ok
      (beBytes 2 s.events.pending.toNat ++ beBytes 2 s.events.enabled.toNat) (framed f s))

/-- The commands that read one record change no state: WIN_GET (R15), HOLD_READ (R41), SEQ_GET (R86) and RING_READ (R61), each
with its refusals and the result layout of 11.3 to 11.5. The first clauses spell the codes of 11.2, the data of a record (R61),
and how an argument field is read, most significant byte first (R171). -/
def Obligations.IndexedReads : Prop :=
  ([Condition.any, .matches, .changes].map Condition.code = [0, 1, 2] ∧
    [Guard.off, .always, .afterFire].map Guard.code = [0, 1, 2] ∧
    [ElemSize.e1, .e2, .e4, .e8].map ElemSize.bytes = [1, 2, 4, 8]) ∧
  (∀ (args : List Byte) (off n : Nat), off + n ≤ args.length → beBytes n (argField args off n) = (args.drop off).take n) ∧
  (∀ (seq : Nat) (time : Time) (w : WriteInfo) (st : RecOutcome) (b : Bool) (n : Nat) (c : Cause) (r : Rec),
    (r = ⟨seq, time, .write w st b⟩ ∨ r = ⟨seq, time, .refused w⟩ →
      r.oldBytes = w.oldData.getD [] ∧ r.newBytes = w.newData) ∧
    (r = ⟨seq, time, .gap n⟩ ∨ r = ⟨seq, time, .trigger c⟩ → r.oldBytes = [] ∧ r.newBytes = [])) ∧
  (∀ (f : Frame) (i : Nat) (s : State), s.resetHeld = false → 1 ≤ f.args.length → i = argField f.args 0 1 →
    exec (.winGet f) s = .next (if 15 < i then answered .badArg [] (framed f s)
      else answered .ok
        (beBytes 1 (if (s.window i).enabled then 1 else 0) ++ beBytes 5 (s.window i).base.toNat ++
          beBytes 4 (s.window i).pitch ++ beBytes 4 (s.window i).width ++ beBytes 2 (s.window i).height ++
          beBytes 2 (s.window i).sources.toNat ++ beBytes 1 (s.window i).condition.code ++
          beBytes 1 (s.window i).element.bytes ++ beBytes 8 (s.window i).mask.toNat ++
          beBytes 8 (s.window i).value.toNat ++ beBytes 1 (if (s.window i).record then 1 else 0) ++
          beBytes 1 (s.window i).guard.code) (framed f s)) ∧
    exec (.seqGet f) s = .next (if 7 < i then answered .badArg [] (framed f s)
      else answered .ok
        (beBytes 1 (match (s.stageAt i).window with | none => 255 | some w => w.toNat) ++
          beBytes 2 (s.stageAt i).target ++ beBytes 4 (s.stageAt i).within ++
          beBytes 1 (if (s.stageAt i).quiet then 1 else 0) ++ beBytes 1 s.seqr.length) (framed f s)) ∧
    (7 < i → exec (.holdRead f) s = .next (answered .badArg [] (framed f s))) ∧
    (i ≤ 7 → s.entry i = .free →
      exec (.holdRead f) s = .next (answered .ok [0, 0, 0, 0, 0, 0, 0, 0, 0] (framed f s))) ∧
    (∀ line owner parked, i ≤ 7 → s.entry i = .owned line owner parked →
      exec (.holdRead f) s = .next (answered .ok
        (beBytes 1 (match owner with | .reading _ => 1 | .slotWait _ _ _ => 2 | .checking => 3) ++ beBytes 5 line.toNat ++
          beBytes 1 (match owner with | .reading _ => 1 | .slotWait _ _ _ => 1 | .checking => 2) ++
          beBytes 1 (match owner with | .reading w => w.req.tag.toNat | .slotWait w _ _ => w.req.tag.toNat | .checking => 0) ++
          beBytes 1 parked.length) (framed f s)))) ∧
  ∀ (f : Frame) (s : State), s.resetHeld = false → 5 ≤ f.args.length →
    exec (.ringRead f) s = .next (
      if 2 < argField f.args 4 1 then answered .badArg [] (framed f s)
      else
        match s.ring.recs.find? fun r => r.seq == argField f.args 0 4 with
        | none => answered .notFound [] (framed f s)
        | some r => answered .ok
            (if argField f.args 4 1 = 0 then r.header.bytesBy beBytes ++ List.replicate 32 0
              else if argField f.args 4 1 = 1 then r.oldBytes ++ List.replicate (64 - r.oldBytes.length) 0
              else r.newBytes ++ List.replicate (64 - r.newBytes.length) 0) (framed f s))

/-! ### Clears and engagement -/

/-- CLEAR of scopes WINDOWS and EVENTS, and of a scope code that is not assigned (R18, R161, R169): the window table alone,
or the two event sets and the fault record alone, or nothing. -/
def Obligations.ClearWindowsAndEvents : Prop :=
  ∀ (f : Frame) (s : State), s.resetHeld = false →
    (f.args.head? = some 2 → exec (.clearWindows f) s =
      .next (answered .ok [] { framed f s with windows := Vector.replicate 16 Window.reset })) ∧
    (f.args.head? = some 3 → exec (.clearEvents f) s =
      .next (answered .ok [] { framed f s with events := { pending := 0, enabled := 0, fault := none } })) ∧
    (∀ b, f.args.head? = some b → b ∉ ([1, 2, 3, 4] : List Byte) →
      exec (.clearSession f) s = .next (answered .badArg [] (framed f s)))

/-- CLEAR SESSION (R56, R63, R79, R96, R113, R132): every waiting write is queued and its entry released; the session, the
ring but for policy and threshold, and the sequencer's state and counts take their reset values; a rollback ends, at once
from CLAIMING with its claim withdrawn, the entry in CHECKING released, and goes to ABORTING from CHECKING and RESTORING;
the drain stops by its table; and the windows, engagement, the enabled set, the fault record, the time base and the host
link keep theirs. The path issue queue keeps its items, in front of those that the clear queues, and the outstanding tags,
the credit count and the record of the last grant stay (R150), before the grants at the end of the event (`settle`). Before
those grants the state is given whole, phase by phase, and the drain by the table of R132, so that no line it had offered is
left to grant. The order of these effects within the one event is the model's choice (log entry 14), and so is the drain in
a STOPPING or FAULTING without a tag outstanding or without an end state, which no run reaches (log entry 15). -/
def Obligations.ClearSession : Prop :=
  ∀ (f : Frame) (s u v w : State), s.resetHeld = false → f.args.head? = some 1 →
    u = releaseSlots false s.ring.slotList (framed f s) →
    v = { u with
      session := State.reset.session, ring := { s.ring with recs := [], outcomeMap := [], gap := 0, nextSeq := 0, slotList := [] }
      seqr := { s.seqr with state := .idle, stage := 0, count := 0, elapsed := 0 } } →
    w = releaseChecking { v with rollback := { v.rollback with state := .aborting, pendingResult := some .cleared } } →
    ∃ x t, exec (.clearSession f) s = .next t ∧ t = answered .ok [] (settle x) ∧
      (u.rollback.state = .idle → x = { v with drain := x.drain }) ∧
      (u.rollback.state = .claiming → x = { withdrawClaim v with
        rollback := { u.rollback with state := .idle, result := .cleared, pendingResult := none }
        events := { u.events with pending := u.events.pending ||| Event.rollbackDone.set }
        drain := x.drain }) ∧
      (u.rollback.state = .checking → x = { w with drain := x.drain }) ∧
      (u.rollback.state = .restoring → x = { v with
        rollback := { u.rollback with state := .aborting, pendingResult := some .cleared }, drain := x.drain }) ∧
      (u.rollback.state = .aborting → x = { v with
        rollback := { u.rollback with pendingResult := some .cleared }, drain := x.drain }) ∧
      (s.drain.state = .off ∨ s.drain.state = .ready → x.drain = s.drain) ∧
      (s.drain.state = .faulted ∨
          (s.drain.state = .running ∨ s.drain.state = .faulting ∨
            s.drain.state = .stopping ∧ s.drain.stopCause ≠ some .clear) ∧ s.drainTags = [] →
        x.drain = { s.drain with
          state := .ready, inFlight := [], q := s.drain.p, offered := none, stopCause := none, endState := none }) ∧
      ((s.drain.state = .running ∨ s.drain.state = .faulting ∨
          s.drain.state = .stopping ∧ s.drain.stopCause ≠ some .clear) ∧ s.drainTags ≠ [] →
        x.drain = { s.drain with
          state := .stopping, inFlight := [], q := s.drain.p, offered := none, stopCause := some .clear
          endState := some .ready }) ∧
      (s.drain.state = .stopping ∧ s.drain.stopCause = some .clear →
        x.drain = { s.drain with
          state := .stopping, inFlight := [], q := s.drain.p, offered := none, stopCause := some .clear
          endState := some (s.drain.endState.getD .ready) }) ∧
      (∃ l, x.mem = { s.mem with queue := s.mem.queue ++ l }) ∧
      (s.mem.credit ≤ s.mem.outstanding.length → t.mem = x.mem) ∧
      t.port = (answered .ok [] (framed f s)).port ∧
      t.session = { state := .idle, kind := none, stopReason := none, p := 0, q := 0, post := 0, guardsInForce := false } ∧
      t.ring = { s.ring with recs := [], outcomeMap := [], gap := 0, nextSeq := 0, slotList := [] } ∧
      t.seqr = { s.seqr with state := .idle, stage := 0, count := 0, elapsed := 0 } ∧
      t.windows = s.windows ∧ t.engaged = s.engaged ∧ t.time = s.time ∧ t.host = s.host ∧ t.mem.credit = s.mem.credit ∧
      t.events.enabled = s.events.enabled ∧ t.events.fault = s.events.fault ∧
      (s.ring.slotList = [] → u.rollback = s.rollback ∧ u.hold = s.hold ∧ u.ingress = s.ingress ∧ u.mem = s.mem) ∧
      (u.rollback.state = .idle →
        t.rollback = u.rollback ∧ t.hold = u.hold ∧ t.ingress = u.ingress ∧ x.mem = u.mem ∧ t.events = s.events) ∧
      (u.rollback.state = .claiming →
        t.rollback = { u.rollback with state := .idle, result := .cleared, pendingResult := none } ∧
        t.hold = (withdrawClaim u).hold ∧ t.ingress = u.ingress ∧ x.mem = u.mem ∧
        t.events.pending = s.events.pending ||| Event.rollbackDone.set) ∧
      (u.rollback.state = .checking →
        t.rollback = w.rollback ∧ t.hold = w.hold ∧ t.ingress = w.ingress ∧ x.mem = w.mem ∧ t.events = s.events ∧
        ((∀ i < 8, (u.entry i).claimCount = 0) → (∀ x ∈ u.hold.arbiter, x.isHead = true) →
          t.rollback = { u.rollback with state := .aborting, pendingResult := some .cleared })) ∧
      (u.rollback.state = .restoring →
        t.rollback = { u.rollback with state := .aborting, pendingResult := some .cleared } ∧
        t.hold = u.hold ∧ t.ingress = u.ingress ∧ x.mem = u.mem ∧ t.events = s.events) ∧
      (u.rollback.state = .aborting →
        t.rollback = { u.rollback with pendingResult := some .cleared } ∧
        t.hold = u.hold ∧ t.ingress = u.ingress ∧ x.mem = u.mem ∧ t.events = s.events) ∧
      (s.drain.state = .off ∨ s.drain.state = .ready → s.drain.offered = none → t.drain = s.drain) ∧
      (s.drain.state = .faulted ∨ (s.drain.state = .running ∨ s.drain.state = .faulting) ∧ s.drainTags = [] →
        t.drain = { s.drain with
          state := .ready, inFlight := [], q := s.drain.p, offered := none, stopCause := none, endState := none }) ∧
      ((s.drain.state = .running ∨ s.drain.state = .faulting ∨
          s.drain.state = .stopping ∧ s.drain.stopCause = some .session) ∧ s.drainTags ≠ [] →
        t.drain = { s.drain with
          state := .stopping, inFlight := [], q := s.drain.p, offered := none, stopCause := some .clear
          endState := some .ready }) ∧
      (∀ e, s.drain.state = .stopping ∧ s.drain.stopCause = some .clear ∧ s.drain.endState = some e →
        t.drain = { s.drain with
          state := .stopping, inFlight := [], q := s.drain.p, offered := none, stopCause := some .clear, endState := some e })

/-- CLEAR ALL (R56, R80, R113, R133, R149, R152, R161, R169): all of CLEAR SESSION, the slot waits and every phase of a
rollback with it, and the windows, the stage list, policy and threshold, the time base and the event unit at their reset
values, the part in BYPASS, and the drain on its way to OFF. A rollback ended at once leaves ROLLBACK_DONE pending with no
event enabled. The memory path keeps what CLEAR SESSION keeps of it (R150). Before the grants at the end of the event the
state is given whole, phase by phase, and the drain by R133. The order within the event is the model's choice (log entry
14). -/
def Obligations.ClearAll : Prop :=
  ∀ (f : Frame) (s u v w : State), s.resetHeld = false → f.args.head? = some 4 →
    u = releaseSlots false s.ring.slotList { framed f s with
      windows := State.reset.windows, events := State.reset.events, time := State.reset.time, engaged := false
      ring := { s.ring with policy := .skip, threshold := 256 }
      seqr := { s.seqr with stages := State.reset.seqr.stages, length := 1 } } →
    v = { u with session := State.reset.session, ring := State.reset.ring, seqr := State.reset.seqr } →
    w = releaseChecking { v with rollback := { v.rollback with state := .aborting, pendingResult := some .cleared } } →
    ∃ x t, exec (.clearAll f) s = .next t ∧ t = answered .ok [] (settle x) ∧
      (u.rollback.state = .idle → x = { v with drain := x.drain }) ∧
      (u.rollback.state = .claiming → x = { withdrawClaim v with
        rollback := { u.rollback with state := .idle, result := .cleared, pendingResult := none }
        events := { u.events with pending := u.events.pending ||| Event.rollbackDone.set }
        drain := x.drain }) ∧
      (u.rollback.state = .checking → x = { w with drain := x.drain }) ∧
      (u.rollback.state = .restoring → x = { v with
        rollback := { u.rollback with state := .aborting, pendingResult := some .cleared }, drain := x.drain }) ∧
      (u.rollback.state = .aborting → x = { v with
        rollback := { u.rollback with pendingResult := some .cleared }, drain := x.drain }) ∧
      (s.drainTags = [] → x.drain = State.reset.drain) ∧
      (s.drainTags ≠ [] → x.drain = { s.drain with
        state := .stopping, inFlight := [], q := s.drain.p, offered := none, stopCause := some .clear, endState := some .off }) ∧
      (∃ l, x.mem = { s.mem with queue := s.mem.queue ++ l }) ∧
      (s.mem.credit ≤ s.mem.outstanding.length → t.mem = x.mem) ∧
      t.port = (answered .ok [] (framed f s)).port ∧
      t.session = State.reset.session ∧ t.ring = State.reset.ring ∧ t.seqr = State.reset.seqr ∧
      t.windows = State.reset.windows ∧ t.engaged = false ∧ t.time = State.reset.time ∧
      t.host = s.host ∧ t.mem.credit = s.mem.credit ∧
      t.events.enabled = 0 ∧ t.events.fault = none ∧ t.irqAsserted = false ∧
      (s.ring.slotList = [] → u.rollback = s.rollback ∧ u.hold = s.hold ∧ u.ingress = s.ingress ∧ u.mem = s.mem) ∧
      (u.rollback.state = .idle →
        t.rollback = u.rollback ∧ t.hold = u.hold ∧ t.ingress = u.ingress ∧ x.mem = u.mem ∧ t.events.pending = 0) ∧
      (u.rollback.state = .claiming →
        t.rollback = { u.rollback with state := .idle, result := .cleared, pendingResult := none } ∧
        t.hold = (withdrawClaim u).hold ∧ t.ingress = u.ingress ∧ x.mem = u.mem ∧
        t.events.pending = Event.rollbackDone.set) ∧
      (u.rollback.state = .checking →
        t.rollback = w.rollback ∧ t.hold = w.hold ∧ t.ingress = w.ingress ∧ x.mem = w.mem ∧ t.events.pending = 0 ∧
        ((∀ i < 8, (u.entry i).claimCount = 0) → (∀ x ∈ u.hold.arbiter, x.isHead = true) →
          t.rollback = { u.rollback with state := .aborting, pendingResult := some .cleared })) ∧
      (u.rollback.state = .restoring →
        t.rollback = { u.rollback with state := .aborting, pendingResult := some .cleared } ∧
        t.hold = u.hold ∧ t.ingress = u.ingress ∧ x.mem = u.mem ∧ t.events.pending = 0) ∧
      (u.rollback.state = .aborting →
        t.rollback = { u.rollback with pendingResult := some .cleared } ∧
        t.hold = u.hold ∧ t.ingress = u.ingress ∧ x.mem = u.mem ∧ t.events.pending = 0) ∧
      (s.drainTags = [] → t.drain = State.reset.drain) ∧
      (s.drainTags ≠ [] → t.drain = { s.drain with
        state := .stopping, inFlight := [], q := s.drain.p, offered := none, stopCause := some .clear, endState := some .off })

/-- ENGAGE and BYPASS (R149, R55, R81): each changes only the engagement state, but that BYPASS taken while ENGAGED ends the
slot waits unrecorded, in list order: each waiting write is queued, its entry released, and the gap counter grows by one for
it (R32, R34, R55), where a session stop lets it be (R56). With no slot wait nothing else changes but that the event ends as every
event does, and given in the state it names neither command changes anything. -/
def Obligations.EngageAndBypass : Prop :=
  (∀ (count : Bool) (s : State),
    releaseSlots count [] s = { s with ring := { s.ring with slotList := [] } } ∧
    ∀ (i : Nat) (rest : List Nat) (line : Addr) (w : HeldWrite) (old : Option (List Byte)) (d : Draft) (parked : List Parked),
      s.entry i = .owned line (.slotWait w old d) parked →
      releaseSlots count (i :: rest) s = releaseSlots count rest (walk i parked { s with
        ring := { s.ring with gap := if count then min (s.ring.gap + 1) 4294967295 else s.ring.gap }
        mem := { s.mem with queue := s.mem.queue ++
          [{ kind := w.req.kind, tag := w.req.tag.setWidth 8, addr := w.req.addr, len := w.req.len
             data := w.req.data }] } })) ∧
  ∀ (f : Frame) (s : State), s.resetHeld = false →
    exec (.engage f) s = .next (answered .ok [] { framed f s with engaged := true }) ∧
    (s.engaged = false → exec (.bypass f) s = .next (answered .ok [] (framed f s))) ∧
    (s.engaged = true → ∀ u, u = releaseSlots true s.ring.slotList { framed f s with engaged := false } →
      exec (.bypass f) s = .next (answered .ok [] (settle u)) ∧
      (s.ring.slotList = [] → u = { framed f s with engaged := false })) ∧
    (s.engaged = true → s.ring.slotList = [] →
      exec (.bypass f) s = .next (answered .ok [] (settle { framed f s with engaged := false }))) ∧
    (s.engaged = true → ∃ t, exec (.bypass f) s = .next t ∧
      t.engaged = false ∧ t.port = (answered .ok [] (framed f s)).port ∧
      t.session = s.session ∧ t.seqr = s.seqr ∧ t.windows = s.windows ∧ t.events = s.events ∧ t.host = s.host ∧
      t.time = s.time ∧ t.ring.recs = s.ring.recs ∧ t.ring.outcomeMap = s.ring.outcomeMap ∧
      t.ring.nextSeq = s.ring.nextSeq ∧ t.ring.slotList = [] ∧
      t.ring.policy = s.ring.policy ∧ t.ring.threshold = s.ring.threshold ∧ t.mem.credit = s.mem.credit ∧
      t.drain = { s.drain with inFlight := t.drain.inFlight, q := t.drain.q, offered := t.drain.offered } ∧
      (s.drain.state ≠ .running → s.drain.offered = none → t.drain = s.drain) ∧
      (s.ring.slotList = [] → t.hold = s.hold ∧ t.ingress = s.ingress ∧ t.rollback = s.rollback) ∧
      (s.ring.gap ≤ 4294967295 → t.ring.gap = min (s.ring.gap + s.ring.slotList.length) 4294967295))

/-! ### Window and sequencer commands -/

/-- The window commands that write. WIN_SET (R3, R4, R14): the checks in order, and its effect: the record takes every field
of the frame at once, mask and value cut to E bytes, and stays disabled. WIN_ENABLE and WIN_DISABLE set the enabled field of one
window, whatever it was, and change nothing else (R16, R17). -/
def Obligations.WindowProgramming : Prop :=
  (∀ (f : Frame) (i base pitch width height : Nat) (s : State), s.resetHeld = false → 38 ≤ f.args.length →
    i = argField f.args 0 1 → base = argField f.args 1 5 → pitch = argField f.args 6 4 → width = argField f.args 10 4 →
    height = argField f.args 14 2 →
    (15 < i → exec (.winSet f) s = .next (answered .badArg [] (framed f s))) ∧
    (i ≤ 15 → (s.window i).enabled = true → exec (.winSet f) s = .next (answered .badState [] (framed f s))) ∧
    (i ≤ 15 → (s.window i).enabled = false →
      (pitch = 0 ∨ 16777216 < pitch ∨ width = 0 ∨ pitch < width ∨ height = 0 ∨ 65535 < height ∨
        2 < argField f.args 18 1 ∨ argField f.args 19 1 ∉ [1, 2, 4, 8] ∨ 1 < argField f.args 36 1 ∨ 2 < argField f.args 37 1 ∨
        2 ^ 40 - 1 < base + (height - 1) * pitch + width - 1) →
      exec (.winSet f) s = .next (answered .badArg [] (framed f s))) ∧
    (∀ cond elem rec guard, i ≤ 15 → (s.window i).enabled = false →
      1 ≤ pitch → pitch ≤ 16777216 → 1 ≤ width → width ≤ pitch → 1 ≤ height → height ≤ 65535 →
      base + (height - 1) * pitch + width - 1 < 2 ^ 40 →
      argField f.args 18 1 = Condition.code cond → argField f.args 19 1 = ElemSize.bytes elem →
      argField f.args 36 1 = (if rec then 1 else 0) → argField f.args 37 1 = Guard.code guard →
      exec (.winSet f) s = .next (answered .ok [] ((framed f s).setWindow i
        { enabled := false, base := BitVec.ofNat 40 base, pitch := pitch, width := width, height := height
          sources := BitVec.ofNat 16 (argField f.args 16 2), condition := cond, element := elem
          mask := BitVec.ofNat 64 (argField f.args 20 8 % 2 ^ (8 * elem.bytes))
          value := BitVec.ofNat 64 (argField f.args 28 8 % 2 ^ (8 * elem.bytes)), record := rec, guard := guard })))) ∧
  ∀ (f : Frame) (i : Nat) (s : State), s.resetHeld = false → 1 ≤ f.args.length → i = argField f.args 0 1 →
    (15 < i →
      exec (.winEnable f) s = .next (answered .badArg [] (framed f s)) ∧
      exec (.winDisable f) s = .next (answered .badArg [] (framed f s))) ∧
    (i ≤ 15 →
      exec (.winEnable f) s = .next (answered .ok []
        { framed f s with windows := s.windows.setIfInBounds i { s.window i with enabled := true } }) ∧
      exec (.winDisable f) s = .next (answered .ok []
        { framed f s with windows := s.windows.setIfInBounds i { s.window i with enabled := false } }))

/-- SEQ_SET and SEQ_LENGTH (R84, R85): the checks in their order, and the one stage record, or N, replaced. -/
def Obligations.SequenceProgramming : Prop :=
  ∀ (f : Frame) (i : Nat) (s : State), s.resetHeld = false → i = argField f.args 0 1 →
    (1 ≤ f.args.length →
      exec (.seqLength f) s = .next (
        if i = 0 ∨ 8 < i then answered .badArg [] (framed f s)
        else if s.session.state ≠ .idle then answered .badState [] (framed f s)
        else answered .ok [] { framed f s with seqr := { s.seqr with length := i } })) ∧
    (9 ≤ f.args.length → 7 < i → exec (.seqSet f) s = .next (answered .badArg [] (framed f s))) ∧
    (9 ≤ f.args.length → i ≤ 7 → s.session.state ≠ .idle →
      exec (.seqSet f) s = .next (answered .badState [] (framed f s))) ∧
    (9 ≤ f.args.length → i ≤ 7 → s.session.state = .idle →
      (15 < argField f.args 1 1 ∧ argField f.args 1 1 ≠ 255 ∨ argField f.args 2 2 = 0 ∨ 1 < argField f.args 8 1) →
      exec (.seqSet f) s = .next (answered .badArg [] (framed f s))) ∧
    (9 ≤ f.args.length → i ≤ 7 → s.session.state = .idle →
      argField f.args 1 1 ≤ 15 ∨ argField f.args 1 1 = 255 → argField f.args 2 2 ≠ 0 → argField f.args 8 1 ≤ 1 →
      exec (.seqSet f) s = .next (answered .ok [] { framed f s with seqr := { s.seqr with
        stages := s.seqr.stages.setIfInBounds i
          { window := if argField f.args 1 1 = 255 then none else some (BitVec.ofNat 4 (argField f.args 1 1))
            target := argField f.args 2 2, within := argField f.args 4 4, quiet := decide (argField f.args 8 1 = 1) } } }))

/-! ### Session and ring commands -/

/-- SESSION_START: the checks in order (R67), and what an accepted one does for each kind (R68, R88, R131). -/
def Obligations.SessionStart : Prop :=
  ∀ (f : Frame) (kind p q policy threshold : Nat) (s : State), s.resetHeld = false → 8 ≤ f.args.length →
    kind = argField f.args 0 1 → p = argField f.args 1 2 → q = argField f.args 3 2 → policy = argField f.args 5 1 →
    threshold = argField f.args 6 2 →
    ((1 < kind ∨ 1 < policy ∨ 511 < p ∨ 511 < q ∨ threshold = 0 ∨ 512 < threshold ∨ kind = 1 ∧ 511 < p + q) →
      exec (.sessionStart f) s = .next (answered .badArg [] (framed f s))) ∧
    (kind ≤ 1 → policy ≤ 1 → p ≤ 511 → q ≤ 511 → 1 ≤ threshold → threshold ≤ 512 → (kind = 1 → p + q ≤ 511) →
      (s.session.state ≠ .idle → exec (.sessionStart f) s = .next (answered .badState [] (framed f s))) ∧
      (s.session.state = .idle →
        s.rollback.state = .aborting ∨ s.drain.state = .stopping ∨ s.drain.state = .faulting →
        exec (.sessionStart f) s = .next (answered .busy [] (framed f s))) ∧
      (s.session.state = .idle →
        s.rollback.state ≠ .aborting → s.drain.state ≠ .stopping → s.drain.state ≠ .faulting →
        (kind = 1 → exec (.sessionStart f) s = .next (answered .ok [] { framed f s with
          ring := { s.ring with threshold := threshold }
          session := { s.session with kind := some .triggered, state := .armed, p := p, q := q, post := 0 }
          seqr := { s.seqr with state := .counting, stage := 0, count := 0, elapsed := 0 } })) ∧
        (kind = 0 → exec (.sessionStart f) s = .next (answered .ok [] (settle { framed f s with
          ring := { s.ring with threshold := threshold, policy := if policy = 0 then .skip else .hold }
          session := { s.session with kind := some .continuous, state := .running }
          drain := { s.drain with state := if s.drain.state = .ready then .running else s.drain.state } })))))

/-- SESSION_STOP (R77, R56, R131): from a recording state the session is STOPPED with reason COMMAND, every waiting write is
queued unrecorded and its entry released, the sequencer is IDLE, a RUNNING drain stops, and the records, the outcome map,
the gap counter and next_seq stay; with the grants at the end of the event (`settle`) this is the whole next state. In any
other state it is BAD_STATE. -/
def Obligations.SessionStop : Prop :=
  ∀ (f : Frame) (s : State), s.resetHeld = false →
    (s.session.state = .idle ∨ s.session.state = .captured ∨ s.session.state = .stopped →
      exec (.sessionStop f) s = .next (answered .badState [] (framed f s))) ∧
    (s.session.state = .running ∨ s.session.state = .armed ∨ s.session.state = .fired →
      ∀ u, u = releaseSlots false s.ring.slotList
          { framed f s with session := { s.session with state := .stopped, stopReason := some .command } } →
      ∃ x t, exec (.sessionStop f) s = .next t ∧ t = answered .ok [] (settle x) ∧
        x = { u with
          seqr := { s.seqr with state := .idle, stage := 0, count := 0, elapsed := 0 }
          drain := x.drain } ∧
        (s.drain.state = .running → s.drainTags = [] → x.drain = { s.drain with
          state := .ready, inFlight := [], q := s.drain.p, offered := none, stopCause := none, endState := none }) ∧
        (s.drain.state = .running → s.drainTags ≠ [] → x.drain = { s.drain with
          state := .stopping, offered := none, stopCause := some .session, endState := some .ready }) ∧
        (s.drain.state ≠ .running → x.drain = s.drain) ∧
        t.port = (answered .ok [] (framed f s)).port ∧
        t.session = { s.session with state := .stopped, stopReason := some .command } ∧
        t.seqr = { s.seqr with state := .idle, stage := 0, count := 0, elapsed := 0 } ∧
        t.ring = { s.ring with slotList := [] } ∧
        t.hold = u.hold ∧ t.ingress = u.ingress ∧ t.rollback = u.rollback ∧
        x.mem = u.mem ∧ (s.mem.credit ≤ s.mem.outstanding.length → t.mem = u.mem) ∧
        t.windows = s.windows ∧ t.engaged = s.engaged ∧ t.events = s.events ∧ t.host = s.host ∧ t.time = s.time ∧
        (s.drain.state = .running → s.drainTags = [] → t.drain = { s.drain with
          state := .ready, inFlight := [], q := s.drain.p, offered := none, stopCause := none, endState := none }) ∧
        (s.drain.state = .running → s.drainTags ≠ [] → t.drain = { s.drain with
          state := .stopping, offered := none, stopCause := some .session, endState := some .ready }) ∧
        (s.drain.state ≠ .running → s.drain.offered = none → t.drain = s.drain))

/-- RING_RELEASE (R62): the checks in order, and the records from the oldest through the seq leave the ring; slots that free
go to the ring-slot arbiter in the same event (R54). The arbiter serves its list from the oldest member while a slot is free in a
RUNNING session: the member's record is appended with the time of its resolution and its pair, after a GAP where the gap counter is above
0, the write is queued and the entry released, and the list goes on; a lone slot takes the GAP, the member staying first; and a
record or a GAP that takes the last number ends the waits: the members left, with a GAP the first one too, are released unrecorded
by the stop that LastNumberStopsSession states (R47, R54, R56). That the released writes are queued before the one being
served is the model's choice (log entry 13). -/
def Obligations.RingRelease : Prop :=
  (∀ (f : Frame) (n : Nat) (s : State), s.resetHeld = false → 4 ≤ f.args.length → n = argField f.args 0 4 →
    ((∀ r ∈ s.ring.recs, r.seq ≠ n) → exec (.ringRelease f) s = .next (answered .notFound [] (framed f s))) ∧
    ((∃ r ∈ s.ring.recs, r.seq = n) → s.ring.numbered →
      ((∃ r ∈ s.ring.recs, r.seq ≤ n ∧ r.isPending = true) ∨ s.rollback.state ≠ .idle ∨
          s.drain.state = .running ∨ s.drain.state = .stopping ∨ s.drain.state = .faulting →
        exec (.ringRelease f) s = .next (answered .busy [] (framed f s))) ∧
      ((∀ r ∈ s.ring.recs, r.seq ≤ n → r.isPending = false) → s.rollback.state = .idle →
          s.drain.state = .off ∨ s.drain.state = .ready ∨ s.drain.state = .faulted →
        exec (.ringRelease f) s = .next (answered .ok [] (settle (serveSlots
          { framed f s with ring := { s.ring with recs := s.ring.recs.filter fun r => decide (n < r.seq) } })))))) ∧
  (∀ r : Rec, r.isPending = true ↔ ∃ w b, r.body = .write w .pending b) ∧
  (∀ s : State, s.ring.slotList = [] ∨ s.session.state ≠ .running ∨ 512 ≤ s.ring.recs.length → serveSlots s = s) ∧
  ∀ (i : Nat) (rest : List Nat) (line : Addr) (w : HeldWrite) (old : Option (List Byte)) (d : Draft)
    (parked : List Parked) (s : State) (m : MemReq),
    s.session.state = .running → s.ring.slotList = i :: rest → s.entry i = .owned line (.slotWait w old d) parked →
    m = { kind := w.req.kind, tag := w.req.tag.setWidth 8, addr := w.req.addr, len := w.req.len, data := w.req.data } →
    (s.ring.recs.length < 512 → s.ring.gap = 0 → s.ring.nextSeq < 4294967295 →
      serveSlots s = serveSlots (walk i parked { s with
        mem := { s.mem with queue := s.mem.queue ++ [m] }
        events := { s.events with pending := s.events.pending |||
          if s.ring.recs.length + 1 = s.ring.threshold then Event.ringThreshold.set else 0 }
        ring := { s.ring with
          recs := s.ring.recs ++ [⟨s.ring.nextSeq, d.time, .write d.info .pending false⟩]
          outcomeMap := s.ring.outcomeMap ++ [(d.info.tag, s.ring.nextSeq)]
          nextSeq := s.ring.nextSeq + 1, slotList := rest } })) ∧
    (s.ring.recs.length < 511 → 0 < s.ring.gap → s.ring.nextSeq + 1 < 4294967295 →
      serveSlots s = serveSlots (walk i parked { s with
        mem := { s.mem with queue := s.mem.queue ++ [m] }
        events := { s.events with pending := s.events.pending |||
          if s.ring.recs.length + 1 = s.ring.threshold ∨ s.ring.recs.length + 2 = s.ring.threshold
          then Event.ringThreshold.set else 0 }
        ring := { s.ring with
          recs := s.ring.recs ++ [⟨s.ring.nextSeq, s.time.counter, .gap s.ring.gap⟩,
            ⟨s.ring.nextSeq + 1, d.time, .write d.info .pending false⟩]
          outcomeMap := s.ring.outcomeMap ++ [(d.info.tag, s.ring.nextSeq + 1)]
          nextSeq := s.ring.nextSeq + 2, gap := 0, slotList := rest } })) ∧
    (s.ring.recs.length = 511 → 0 < s.ring.gap → s.ring.nextSeq < 4294967295 →
      serveSlots s = { s with
        events := { s.events with pending := s.events.pending |||
          if 512 = s.ring.threshold then Event.ringThreshold.set else 0 }
        ring := { s.ring with
          recs := s.ring.recs ++ [⟨s.ring.nextSeq, s.time.counter, .gap s.ring.gap⟩]
          nextSeq := s.ring.nextSeq + 1, gap := 0 } }) ∧
    (s.ring.recs.length < 512 → s.ring.gap = 0 → s.ring.nextSeq = 4294967295 → ∀ t,
      t = appendRec false (.write d.info .pending false) d.time { s with ring := { s.ring with slotList := rest } } →
      serveSlots s = release i { t with mem := { t.mem with queue := t.mem.queue ++ [m] } }) ∧
    (s.ring.recs.length < 511 → 0 < s.ring.gap → s.ring.nextSeq + 1 = 4294967295 → ∀ t,
      t = appendRec false (.write d.info .pending false) d.time { s with
        ring := { s.ring with
          recs := s.ring.recs ++ [⟨s.ring.nextSeq, s.time.counter, .gap s.ring.gap⟩]
          nextSeq := 4294967295, gap := 0, slotList := rest }
        events := { s.events with pending := s.events.pending |||
          if s.ring.recs.length + 1 = s.ring.threshold then Event.ringThreshold.set else 0 } } →
      serveSlots s = release i { t with mem := { t.mem with queue := t.mem.queue ++ [m] } }) ∧
    (s.ring.recs.length < 512 → 0 < s.ring.gap → s.ring.nextSeq = 4294967295 →
      serveSlots s = appendRec false (.gap s.ring.gap) s.time.counter { s with ring := { s.ring with gap := 0 } })

/-! ### Drain and rollback commands -/

/-- The drain's commands. SPILL_SET (R119): the checks in order; size 0 takes the area away; otherwise the area takes its
arguments with every index at 0, and the drain runs at once in a RUNNING session. SPILL_CONSUME (R126): with d the distance
from c to newc in the direction of the wrap, a newc beyond the area, or a d above u, is BAD_ARG with nothing changed, and
otherwise c takes newc and u falls by d. DRAIN_RESTART (R130): from FAULTED the drain goes on with q at p, and p, c and u kept;
FAULTING is BUSY and every other state BAD_STATE. -/
def Obligations.DrainCommands : Prop :=
  (∀ (f : Frame) (base size mark : Nat) (s : State), s.resetHeld = false → 11 ≤ f.args.length →
    base = argField f.args 0 5 → size = argField f.args 5 3 → mark = argField f.args 8 3 →
    (size ≠ 0 ∧ (size < 64 ∨ 262144 < size ∨ base % 64 ≠ 0 ∨ mark = 0 ∨ size < mark ∨ 2 ^ 40 - 1 < base + 64 * size - 1) →
      exec (.spillSet f) s = .next (answered .badArg [] (framed f s))) ∧
    (size = 0 ∨ 64 ≤ size ∧ size ≤ 262144 ∧ base % 64 = 0 ∧ 1 ≤ mark ∧ mark ≤ size ∧ base + 64 * size - 1 < 2 ^ 40 →
      (s.drain.state = .faulted → exec (.spillSet f) s = .next (answered .badState [] (framed f s))) ∧
      (s.drain.state = .running ∨ s.drain.state = .stopping ∨ s.drain.state = .faulting →
        exec (.spillSet f) s = .next (answered .busy [] (framed f s))) ∧
      (s.drain.state = .off ∨ s.drain.state = .ready → size = 0 →
        exec (.spillSet f) s = .next (answered .ok [] { framed f s with drain := State.reset.drain })) ∧
      (s.drain.state = .off ∨ s.drain.state = .ready → size ≠ 0 →
        exec (.spillSet f) s = .next (answered .ok [] (settle { framed f s with drain := { State.reset.drain with
          state := if s.session.state = .running then .running else .ready
          base := BitVec.ofNat 40 base, size := size, watermark := mark } }))))) ∧
  (∀ (f : Frame) (newc d : Nat) (s : State), s.resetHeld = false → 3 ≤ f.args.length → newc = argField f.args 0 3 →
    (s.drain.size ≤ newc → exec (.spillConsume f) s = .next (answered .badArg [] (framed f s))) ∧
    (newc < s.drain.size → s.drain.c < s.drain.size → d < s.drain.size → (s.drain.c + d) % s.drain.size = newc →
      (s.drain.u < d → exec (.spillConsume f) s = .next (answered .badArg [] (framed f s))) ∧
      (d ≤ s.drain.u → exec (.spillConsume f) s = .next (answered .ok []
        (settle { framed f s with drain := { s.drain with c := newc, u := s.drain.u - d } }))))) ∧
  ∀ (f : Frame) (s : State), s.resetHeld = false →
    (s.drain.state = .faulted → exec (.drainRestart f) s = .next (answered .ok [] (settle { framed f s with
      drain := { s.drain with
        state := if s.session.state = .running then .running else .ready, q := s.drain.p } }))) ∧
    (s.drain.state = .faulting → exec (.drainRestart f) s = .next (answered .busy [] (framed f s))) ∧
    (s.drain.state ≠ .faulted → s.drain.state ≠ .faulting →
      exec (.drainRestart f) s = .next (answered .badState [] (framed f s)))

/-- ROLLBACK_START (R100, R101): the checks in order; accepted, the mode, first and cursor take their arguments, the counts and
the result start afresh, and the engine visits the record at the cursor in the same event. -/
def Obligations.RollbackStart : Prop :=
  ∀ (f : Frame) (first last : Nat) (s : State), s.resetHeld = false → 9 ≤ f.args.length →
    first = argField f.args 0 4 → last = argField f.args 4 4 →
    (2 < argField f.args 8 1 ∨ last < first → exec (.rollbackStart f) s = .next (answered .badArg [] (framed f s))) ∧
    (∀ mode, (mode = .force ∧ argField f.args 8 1 = 0 ∨ mode = .checkSkip ∧ argField f.args 8 1 = 1 ∨
        mode = .checkStop ∧ argField f.args 8 1 = 2) → first ≤ last →
      (s.session.state ≠ .stopped → s.session.state ≠ .captured →
        exec (.rollbackStart f) s = .next (answered .badState [] (framed f s))) ∧
      (s.session.state = .stopped ∨ s.session.state = .captured →
        (s.rollback.state ≠ .idle ∨ s.drain.state = .stopping ∨ s.drain.state = .faulting →
          exec (.rollbackStart f) s = .next (answered .busy [] (framed f s))) ∧
        (s.rollback.state = .idle → s.drain.state ≠ .stopping → s.drain.state ≠ .faulting →
          ((∀ r ∈ s.ring.recs, r.seq ≠ first) ∨ (∀ r ∈ s.ring.recs, r.seq ≠ last) →
            exec (.rollbackStart f) s = .next (answered .notFound [] (framed f s))) ∧
          ((∃ r ∈ s.ring.recs, r.seq = first) → (∃ r ∈ s.ring.recs, r.seq = last) →
            exec (.rollbackStart f) s = .next (answered .ok [] (settle (visit (last - first) { framed f s with
              rollback := { state := s.rollback.state, mode := mode, first := first, cursor := last, result := .none
                            pendingResult := none, restored := 0, conflicts := 0, skipped := 0 } })))))))

/-- Visits and skips run on within one event (R102, R103): the records that cannot be undone are skipped and counted, in
decreasing order, up to the first that can, whose line is claimed; with none in the run the rollback ends DONE with the
cursor at first. A record can be undone when it is a WRITE with outcome OK, not restored, with its old data present (R102).
Finished with a record, the engine visits the next older one, or, with the cursor at first, ends DONE (R103). -/
def Obligations.VisitsSkipToUndoable : Prop :=
  (∀ (r : Rec) (w : WriteInfo),
    r.undoable = some w ↔ r.body = .write w .ok false ∧ ∃ old, w.oldData = some old) ∧
  (∀ s : State,
    (s.rollback.cursor = s.rollback.first → advance s = { s with
      rollback := { s.rollback with state := .idle, result := .done, pendingResult := none }
      events := { s.events with pending := s.events.pending ||| Event.rollbackDone.set } }) ∧
    (s.rollback.first < s.rollback.cursor → advance s = visit (s.rollback.cursor - 1 - s.rollback.first)
      { s with rollback := { s.rollback with cursor := s.rollback.cursor - 1 } })) ∧
  ∀ (n : Nat) (s : State), n ≤ s.rollback.cursor →
    (∀ m ≤ n, ∀ w, (∀ k < m, (s.ring.find (s.rollback.cursor - k)).bind Rec.undoable = none) →
      (s.ring.find (s.rollback.cursor - m)).bind Rec.undoable = some w →
      visit n s = claimLine (lineOf w.addr) { s with rollback := { s.rollback with
        cursor := s.rollback.cursor - m, skipped := s.rollback.skipped + m } }) ∧
    ((∀ k ≤ n, (s.ring.find (s.rollback.cursor - k)).bind Rec.undoable = none) →
      visit n s = { s with
        rollback := { s.rollback with
          state := .idle, result := .done, pendingResult := none
          cursor := s.rollback.cursor - n, skipped := s.rollback.skipped + (n + 1) }
        events := { s.events with pending := s.events.pending ||| Event.rollbackDone.set } })

/-- A claimed line (R36, R104, R105, R108): behind the owner of the line the claim parks; with an entry FREE, a FORCE step
queues the restore write of the record at the cursor and leaves every entry as it was, and a CHECK step holds the lowest FREE
entry and queues its check read; with none FREE the claim waits on the arbiter. -/
def Obligations.ClaimOfLine : Prop :=
  ∀ (line : Addr) (s : State),
    (∀ i owner parked, i < 8 → s.entry i = .owned line owner parked → (∀ j < i, (s.entry j).line? ≠ some line) →
      claimLine line s = ({ s with rollback := { s.rollback with state := .claiming } } : State).setEntry i
        (.owned line owner (parked ++ [Parked.claim { line := line, mode := s.rollback.mode }]))) ∧
    ((∀ j < 8, (s.entry j).line? ≠ some line) →
      ((∀ i < 8, s.entry i ≠ .free) → claimLine line s = { s with
        rollback := { s.rollback with state := .claiming }
        hold := { s.hold with arbiter := s.hold.arbiter ++ [.rollback { line := line, mode := s.rollback.mode }] } }) ∧
      (∀ i < 8, s.entry i = .free → (∀ j < i, s.entry j ≠ .free) →
        (∀ r w st b old, s.rollback.mode = .force → s.ring.find s.rollback.cursor = some r → r.body = .write w st b →
          w.oldData = some old →
          claimLine line s = { s with
            rollback := { s.rollback with state := .restoring }
            mem := { s.mem with queue := s.mem.queue ++
              [{ kind := .write, tag := 72, addr := w.addr, len := w.len, data := old }] } }) ∧
        (s.rollback.mode ≠ .force →
          claimLine line s = ({ s with
            rollback := { s.rollback with state := .checking }
            mem := { s.mem with queue := s.mem.queue ++
              [{ kind := .read, tag := 72, addr := line, len := 64, data := [] }] } } : State).setEntry i
            (.owned line .checking []))))

/-- ROLLBACK_ABORT, phase by phase (R110): BAD_STATE in IDLE; in CLAIMING the claim is withdrawn and the rollback ends ABORTED;
in CHECKING the entry is released and in RESTORING the restore stays, the engine going to ABORTING; in ABORTING nothing
changes. A claim withdrawn leaves the arbiter and the parked list it waits in, the other items in their order, and no entry is
released by it (R37). -/
def Obligations.RollbackAbort : Prop :=
  (∀ s : State,
    (∀ i < 8, s.entry i = .free → (withdrawClaim s).entry i = .free) ∧
    (∀ i line owner parked, i < 8 → s.entry i = .owned line owner parked →
      (withdrawClaim s).entry i = .owned line owner (parked.filter fun x => !x.isClaim)) ∧
    (withdrawClaim s).hold.arbiter = s.hold.arbiter.filter (fun x => x.isHead) ∧
    withdrawClaim s = { s with hold := (withdrawClaim s).hold }) ∧
  ∀ (f : Frame) (s : State), s.resetHeld = false →
    (s.rollback.state = .idle → exec (.rollbackAbort f) s = .next (answered .badState [] (framed f s))) ∧
    (s.rollback.state = .claiming → exec (.rollbackAbort f) s = .next (answered .ok [] (settle
      { withdrawClaim (framed f s) with
        rollback := { s.rollback with state := .idle, result := .aborted, pendingResult := none }
        events := { s.events with pending := s.events.pending ||| Event.rollbackDone.set } }))) ∧
    (∀ i line parked, s.rollback.state = .checking → i < 8 → s.entry i = .owned line .checking parked →
      (∀ j < i, (s.entry j).isChecking = false) →
      exec (.rollbackAbort f) s = .next (answered .ok [] (settle (walk i parked { framed f s with
        rollback := { s.rollback with state := .aborting, pendingResult := some .aborted } })))) ∧
    (s.rollback.state = .restoring → exec (.rollbackAbort f) s = .next (answered .ok [] (settle { framed f s with
      rollback := { s.rollback with state := .aborting, pendingResult := some .aborted } }))) ∧
    (s.rollback.state = .aborting → exec (.rollbackAbort f) s = .next (answered .ok [] (settle (framed f s))))

/-! ### Time and event commands -/

/-- TIME_PRESCALE stores its argument and leaves the tick in progress (R153); EVENT_ACK removes the named events from the
pending set (R156); EVENT_ENABLE replaces the enabled set (R155); bits 13 to 15 are ignored. Nothing else changes. IRQ_N is asserted exactly
while some event is both pending and enabled (R157): after EVENT_ENABLE, where a pending event is one of those it names. The
first clause spells the event bits of 11.2, from FIRED at bit 0 to STRAY_RESPONSE at bit 12, and how a raise sets one (R154). -/
def Obligations.TimeAndEventCommands : Prop :=
  ([Event.fired, .captured, .seqExhausted, .ringThreshold, .ringFull, .stageTimeout, .refusal, .prereadFault,
      .spillWatermark, .drainFault, .rollbackDone, .protocol, .strayResponse].map Event.set =
    [0x0001, 0x0002, 0x0004, 0x0008, 0x0010, 0x0020, 0x0040, 0x0080, 0x0100, 0x0200, 0x0400, 0x0800, 0x1000]) ∧
  (∀ (e : Event) (s : State), raise e s =
    { s with events := { s.events with pending := s.events.pending ||| e.set } }) ∧
  (∀ s : State, s.irqAsserted = true ↔
    ∃ k < 16, s.events.pending.getLsbD k = true ∧ s.events.enabled.getLsbD k = true) ∧
  (∀ (f : Frame) (s : State), s.resetHeld = false → 2 ≤ f.args.length →
    ∃ t, exec (.eventEnable f) s = .next t ∧
      (t.irqAsserted = true ↔
        ∃ k < 13, s.events.pending.getLsbD k = true ∧ (argField f.args 0 2).testBit k = true)) ∧
  ∀ (f : Frame) (s : State), s.resetHeld = false → 2 ≤ f.args.length →
    exec (.timePrescale f) s = .next (answered .ok []
      { framed f s with time := { s.time with prescale := BitVec.ofNat 16 (argField f.args 0 2) } }) ∧
    exec (.eventAck f) s = .next (answered .ok [] { framed f s with events := { s.events with
      pending := s.events.pending &&& ~~~ (BitVec.ofNat 16 (argField f.args 0 2) &&& 0x1FFF) } }) ∧
    exec (.eventEnable f) s = .next (answered .ok [] { framed f s with events := { s.events with
      enabled := BitVec.ofNat 16 (argField f.args 0 2) &&& 0x1FFF } })

/-- FAULT_READ answers the fault record and empties it in the same event (R160): for an EMPTY record every byte is zero, and a
STRAY_RESPONSE returns its address as zero. A fault offered afterwards fills the record afresh. -/
def Obligations.FaultRead : Prop :=
  ∀ (f : Frame) (s : State), s.resetHeld = false →
    (s.events.fault = none → exec (.faultRead f) s = .next (answered .ok (List.replicate 15 0) (framed f s))) ∧
    (∀ r, s.events.fault = some r →
      exec (.faultRead f) s = .next (answered .ok
        (beBytes 1 (match r.kind with
            | .protocol => 1 | .strayResponse => 2 | .prereadFault => 3 | .drainFault => 4 | .rollbackFault => 5) ++
          beBytes 1 (match r.port with | .host => 0 | .memory => 1) ++ beBytes 1 r.tag.toNat ++
          beBytes 5 (match r.addr with | none => 0 | some a => a.toNat) ++ beBytes 6 r.time.toNat ++
          beBytes 1 (if r.more then 1 else 0)) { framed f s with events := { s.events with fault := none } })) ∧
    ∀ kind port tag addr, s.events.fault = none →
      offerFault kind port tag addr s = { s with events := { s.events with
        fault := some { kind := kind, port := port, tag := tag, addr := addr, time := s.time.counter, more := false } } }

/-! ### Encodings -/

/-- Every frame command comes back from the samples of MOSI that software clocks in for it (10.6, R165), and the samples are
assembled as R163 says: eight of them complete a byte, most significant bit first, and those left over complete none. CS_N
falling begins no frame while one is in progress or while the rise after RESET_N is awaited, and SCLK counts in a frame only.
Which row a CLEAR frame of a scope not assigned, or without one, comes back as is the model's choice (log entry 12), and so is
that the table's rows, which give no bits, spell no command (log entry 24). -/
def Obligations.FrameDecodesToItsCommand : Prop :=
  (∀ (c : Instr) (bits : List Bool), c.wellFormed = true → encodeFrame c = some bits → decodeFrame bits = c) ∧
  (∀ f : Frame, f.args.length = f.bits.length / 8 ∧ f.left = f.bits.length % 8 ∧
    ∀ k j, k < f.args.length → j < 8 → (f.args.getD k 0).getLsbD (7 - j) = f.bits.getD (8 * k + j) false) ∧
  (∀ (p : Port) (mosi : Bool),
    (p.inFrame = true ∨ p.awaitRise = true → p.fall = p) ∧ (p.inFrame = false → p.clock mosi = p)) ∧
  ∀ nbits w : Nat, decodeTableWord nbits w = none

/-! ### What every step keeps -/

/-- The laws hold at the state after reset. -/
def Obligations.LawsHoldAtReset : Prop :=
  State.reset.HostLaw ∧ State.reset.CreditLaw ∧ State.reset.GrantLaw ∧ State.reset.LineLaw ∧ State.reset.RingLaw ∧
  State.reset.SessionLaw ∧ State.reset.SpillLaw ∧ State.reset.WindowLaw ∧ State.reset.AnswerLaw

/-- The credit count plus the number of requests in the part is 16 at every event, and the requests in the part are those of
the ingress queue, the hold entries and their parked lists, the path issue queue and the memory link, each once (R136,
R137, R139). -/
def Obligations.HostCreditLawKept : Prop := ∀ s t : State, s.HostLaw → step s = .next t → t.HostLaw

/-- Requests outstanding on the memory link never exceed the announced credit, which is at most 32 (R141, R145); and no memory
credit is left free while a requester has a request ready (R145). -/
def Obligations.MemoryCreditLawsKept : Prop :=
  (∀ s t : State, s.CreditLaw → step s = .next t → t.CreditLaw) ∧
  ∀ s t : State, s.GrantLaw → step s = .next t → t.GrantLaw

/-- No two hold entries own the same line (R21). -/
def Obligations.OneOwnerPerLine : Prop := ∀ s t : State, s.LineLaw → step s = .next t → t.LineLaw

/-- The ring holds at most 512 records, consecutively numbered up to next_seq minus one (R43, R46, R72). -/
def Obligations.RingLawKept : Prop := ∀ s t : State, s.RingLaw → step s = .next t → t.RingLaw

/-- The sequencer is COUNTING exactly in ARMED and DONE exactly in FIRED and CAPTURED, and the fields of session and sequencer
stay in range: P and Q at most 511, the post-count at most Q (R65), k below N and c at most its stage's target in COUNTING and
DONE, all three counts 0 in IDLE (R66, R87, R88, R90, R92). -/
def Obligations.SessionLawKept : Prop := ∀ s t : State, s.SessionLaw → step s = .next t → t.SessionLaw

/-- The indices of the spill area keep their relations, and the lines in use never exceed its size (R117, R124). -/
def Obligations.SpillLawKept : Prop := ∀ s t : State, s.SpillLaw → step s = .next t → t.SpillLaw

/-- Stored windows stay in range, unassigned event bits stay zero, and a result is held with OK only (R3, R4, R162, 11.2). -/
def Obligations.WindowAndAnswerLawsKept : Prop :=
  ∀ s t : State, s.WindowLaw ∧ s.AnswerLaw → step s = .next t → t.WindowLaw ∧ t.AnswerLaw

/-! ### Which commands change what -/

/-- Software's settings change by their own commands only: the window table, engagement, the prescale, the enabled set, the
stage list and N, the append policy and the threshold (R1, R50, R57, R81, R83, R149, R152, R155). An event that is pending
stays so until EVENT_ACK, CLEAR EVENTS, CLEAR ALL or pin reset (R154); and the AFTER_FIRE guards, once in force, stay so until
CLEAR SESSION, CLEAR ALL or pin reset (R12). -/
def Obligations.SettingsEventsAndGuardsStay : Prop :=
  (∀ (c : Instr) (s t : State), exec c s = .next t → c ≠ .pinReset →
    ((∀ f, c ≠ .winSet f ∧ c ≠ .winEnable f ∧ c ≠ .winDisable f ∧ c ≠ .clearWindows f ∧ c ≠ .clearAll f) →
      (∀ f, c = .clearSession f ∨ c = .clearEvents f → f.args.head? ≠ some 2 ∧ f.args.head? ≠ some 4) →
      t.windows = s.windows) ∧
    ((∀ f, c ≠ .engage f ∧ c ≠ .bypass f ∧ c ≠ .clearAll f) →
      (∀ f, c = .clearSession f ∨ c = .clearWindows f ∨ c = .clearEvents f → f.args.head? ≠ some 4) →
      t.engaged = s.engaged) ∧
    ((∀ f, c ≠ .timePrescale f ∧ c ≠ .clearAll f) →
      (∀ f, c = .clearSession f ∨ c = .clearWindows f ∨ c = .clearEvents f → f.args.head? ≠ some 4) →
      t.time.prescale = s.time.prescale) ∧
    ((∀ f, c ≠ .eventEnable f ∧ c ≠ .clearEvents f ∧ c ≠ .clearAll f) →
      (∀ f, c = .clearSession f ∨ c = .clearWindows f → f.args.head? ≠ some 3 ∧ f.args.head? ≠ some 4) →
      t.events.enabled = s.events.enabled) ∧
    ((∀ f, c ≠ .seqSet f ∧ c ≠ .seqLength f ∧ c ≠ .clearAll f) →
      (∀ f, c = .clearSession f ∨ c = .clearWindows f ∨ c = .clearEvents f → f.args.head? ≠ some 4) →
      t.seqr.stages = s.seqr.stages ∧ t.seqr.length = s.seqr.length) ∧
    ((∀ f, c ≠ .sessionStart f ∧ c ≠ .clearAll f) →
      (∀ f, c = .clearSession f ∨ c = .clearWindows f ∨ c = .clearEvents f → f.args.head? ≠ some 4) →
      t.ring.policy = s.ring.policy ∧ t.ring.threshold = s.ring.threshold)) ∧
  ∀ (c : Instr) (s t : State), exec c s = .next t → c.wellFormed = true → c ≠ .pinReset →
    (∀ f, c ≠ .clearAll f) →
    ((∀ f, c ≠ .eventAck f ∧ c ≠ .clearEvents f) →
      ∀ k, s.events.pending.getLsbD k = true → t.events.pending.getLsbD k = true) ∧
    ((∀ f, c ≠ .clearSession f) → s.session.guardsInForce = true → t.session.guardsInForce = true)
end

