-- ==== Sys2Proof/Laws/State.lean ====
section
/-! SUPPORT. What each plain update of the state does to each field, and what it leaves: true by unfolding, and used by
`simp`, so that no later proof unfolds a record update. -/

namespace Sys2Proof.Machine

variable (s : State)

/-! ### `raise` -/

@[simp] theorem raise_pending (e : Event) : (raise e s).pending = s.pending := rfl
@[simp] theorem raise_resetHeld (e : Event) : (raise e s).resetHeld = s.resetHeld := rfl
@[simp] theorem raise_engaged (e : Event) : (raise e s).engaged = s.engaged := rfl
@[simp] theorem raise_host (e : Event) : (raise e s).host = s.host := rfl
@[simp] theorem raise_ingress (e : Event) : (raise e s).ingress = s.ingress := rfl
@[simp] theorem raise_mem (e : Event) : (raise e s).mem = s.mem := rfl
@[simp] theorem raise_windows (e : Event) : (raise e s).windows = s.windows := rfl
@[simp] theorem raise_hold (e : Event) : (raise e s).hold = s.hold := rfl
@[simp] theorem raise_ring (e : Event) : (raise e s).ring = s.ring := rfl
@[simp] theorem raise_session (e : Event) : (raise e s).session = s.session := rfl
@[simp] theorem raise_seqr (e : Event) : (raise e s).seqr = s.seqr := rfl
@[simp] theorem raise_rollback (e : Event) : (raise e s).rollback = s.rollback := rfl
@[simp] theorem raise_drain (e : Event) : (raise e s).drain = s.drain := rfl
@[simp] theorem raise_time (e : Event) : (raise e s).time = s.time := rfl
@[simp] theorem raise_events (e : Event) :
    (raise e s).events =
      { s.events with pending := s.events.pending ||| e.set } := rfl
@[simp] theorem raise_port (e : Event) : (raise e s).port = s.port := rfl
@[simp] theorem raise_freeCount (e : Event) : (raise e s).freeCount = s.freeCount := rfl

/-! ### `respond` -/

@[simp] theorem respond_pending (t : HostTag) (st : HostStatus) (d : List Byte) :
    (respond t st d s).pending =
      s.pending := rfl
@[simp] theorem respond_resetHeld (t : HostTag) (st : HostStatus) (d : List Byte) :
    (respond t st d s).resetHeld =
      s.resetHeld := rfl
@[simp] theorem respond_engaged (t : HostTag) (st : HostStatus) (d : List Byte) :
    (respond t st d s).engaged =
      s.engaged := rfl
@[simp] theorem respond_host (t : HostTag) (st : HostStatus) (d : List Byte) :
    (respond t st d s).host =
      { s.host with credit := s.host.credit + 1, inPart := s.host.inPart.erase t, sent := s.host.sent ++ [.response t st d] } := rfl
@[simp] theorem respond_ingress (t : HostTag) (st : HostStatus) (d : List Byte) :
    (respond t st d s).ingress =
      s.ingress := rfl
@[simp] theorem respond_mem (t : HostTag) (st : HostStatus) (d : List Byte) : (respond t st d s).mem = s.mem := rfl
@[simp] theorem respond_windows (t : HostTag) (st : HostStatus) (d : List Byte) :
    (respond t st d s).windows =
      s.windows := rfl
@[simp] theorem respond_hold (t : HostTag) (st : HostStatus) (d : List Byte) : (respond t st d s).hold = s.hold := rfl
@[simp] theorem respond_ring (t : HostTag) (st : HostStatus) (d : List Byte) : (respond t st d s).ring = s.ring := rfl
@[simp] theorem respond_session (t : HostTag) (st : HostStatus) (d : List Byte) :
    (respond t st d s).session =
      s.session := rfl
@[simp] theorem respond_seqr (t : HostTag) (st : HostStatus) (d : List Byte) : (respond t st d s).seqr = s.seqr := rfl
@[simp] theorem respond_rollback (t : HostTag) (st : HostStatus) (d : List Byte) :
    (respond t st d s).rollback =
      s.rollback := rfl
@[simp] theorem respond_drain (t : HostTag) (st : HostStatus) (d : List Byte) :
    (respond t st d s).drain =
      s.drain := rfl
@[simp] theorem respond_time (t : HostTag) (st : HostStatus) (d : List Byte) : (respond t st d s).time = s.time := rfl
@[simp] theorem respond_events (t : HostTag) (st : HostStatus) (d : List Byte) :
    (respond t st d s).events =
      s.events := rfl
@[simp] theorem respond_port (t : HostTag) (st : HostStatus) (d : List Byte) : (respond t st d s).port = s.port := rfl
@[simp] theorem respond_freeCount (t : HostTag) (st : HostStatus) (d : List Byte) :
    (respond t st d s).freeCount =
      s.freeCount := rfl

/-! ### `enqueue` -/

@[simp] theorem enqueue_pending (m : MemReq) : (enqueue m s).pending = s.pending := rfl
@[simp] theorem enqueue_resetHeld (m : MemReq) : (enqueue m s).resetHeld = s.resetHeld := rfl
@[simp] theorem enqueue_engaged (m : MemReq) : (enqueue m s).engaged = s.engaged := rfl
@[simp] theorem enqueue_host (m : MemReq) : (enqueue m s).host = s.host := rfl
@[simp] theorem enqueue_ingress (m : MemReq) : (enqueue m s).ingress = s.ingress := rfl
@[simp] theorem enqueue_mem (m : MemReq) : (enqueue m s).mem = { s.mem with queue := s.mem.queue ++ [m] } := rfl
@[simp] theorem enqueue_windows (m : MemReq) : (enqueue m s).windows = s.windows := rfl
@[simp] theorem enqueue_hold (m : MemReq) : (enqueue m s).hold = s.hold := rfl
@[simp] theorem enqueue_ring (m : MemReq) : (enqueue m s).ring = s.ring := rfl
@[simp] theorem enqueue_session (m : MemReq) : (enqueue m s).session = s.session := rfl
@[simp] theorem enqueue_seqr (m : MemReq) : (enqueue m s).seqr = s.seqr := rfl
@[simp] theorem enqueue_rollback (m : MemReq) : (enqueue m s).rollback = s.rollback := rfl
@[simp] theorem enqueue_drain (m : MemReq) : (enqueue m s).drain = s.drain := rfl
@[simp] theorem enqueue_time (m : MemReq) : (enqueue m s).time = s.time := rfl
@[simp] theorem enqueue_events (m : MemReq) : (enqueue m s).events = s.events := rfl
@[simp] theorem enqueue_port (m : MemReq) : (enqueue m s).port = s.port := rfl
@[simp] theorem enqueue_freeCount (m : MemReq) : (enqueue m s).freeCount = s.freeCount := rfl

/-! ### `setEntry` -/

@[simp] theorem State.setEntry_pending (i : Nat) (e : HoldEntry) : (s.setEntry i e).pending = s.pending := rfl
@[simp] theorem State.setEntry_resetHeld (i : Nat) (e : HoldEntry) : (s.setEntry i e).resetHeld = s.resetHeld := rfl
@[simp] theorem State.setEntry_engaged (i : Nat) (e : HoldEntry) : (s.setEntry i e).engaged = s.engaged := rfl
@[simp] theorem State.setEntry_host (i : Nat) (e : HoldEntry) : (s.setEntry i e).host = s.host := rfl
@[simp] theorem State.setEntry_ingress (i : Nat) (e : HoldEntry) : (s.setEntry i e).ingress = s.ingress := rfl
@[simp] theorem State.setEntry_mem (i : Nat) (e : HoldEntry) : (s.setEntry i e).mem = s.mem := rfl
@[simp] theorem State.setEntry_windows (i : Nat) (e : HoldEntry) : (s.setEntry i e).windows = s.windows := rfl
@[simp] theorem State.setEntry_hold (i : Nat) (e : HoldEntry) :
    (s.setEntry i e).hold =
      { s.hold with entries := s.hold.entries.setIfInBounds i e } := rfl
@[simp] theorem State.setEntry_ring (i : Nat) (e : HoldEntry) : (s.setEntry i e).ring = s.ring := rfl
@[simp] theorem State.setEntry_session (i : Nat) (e : HoldEntry) : (s.setEntry i e).session = s.session := rfl
@[simp] theorem State.setEntry_seqr (i : Nat) (e : HoldEntry) : (s.setEntry i e).seqr = s.seqr := rfl
@[simp] theorem State.setEntry_rollback (i : Nat) (e : HoldEntry) : (s.setEntry i e).rollback = s.rollback := rfl
@[simp] theorem State.setEntry_drain (i : Nat) (e : HoldEntry) : (s.setEntry i e).drain = s.drain := rfl
@[simp] theorem State.setEntry_time (i : Nat) (e : HoldEntry) : (s.setEntry i e).time = s.time := rfl
@[simp] theorem State.setEntry_events (i : Nat) (e : HoldEntry) : (s.setEntry i e).events = s.events := rfl
@[simp] theorem State.setEntry_port (i : Nat) (e : HoldEntry) : (s.setEntry i e).port = s.port := rfl
@[simp] theorem State.setEntry_freeCount (i : Nat) (e : HoldEntry) : (s.setEntry i e).freeCount = s.freeCount := rfl

/-! ### `popHead` -/

@[simp] theorem popHead_pending : (popHead s).pending = s.pending := rfl
@[simp] theorem popHead_resetHeld : (popHead s).resetHeld = s.resetHeld := rfl
@[simp] theorem popHead_engaged : (popHead s).engaged = s.engaged := rfl
@[simp] theorem popHead_host : (popHead s).host = s.host := rfl
@[simp] theorem popHead_ingress : (popHead s).ingress = { queue := s.ingress.queue.tail, waiting := none } := rfl
@[simp] theorem popHead_mem : (popHead s).mem = s.mem := rfl
@[simp] theorem popHead_windows : (popHead s).windows = s.windows := rfl
@[simp] theorem popHead_hold : (popHead s).hold = s.hold := rfl
@[simp] theorem popHead_ring : (popHead s).ring = s.ring := rfl
@[simp] theorem popHead_session : (popHead s).session = s.session := rfl
@[simp] theorem popHead_seqr : (popHead s).seqr = s.seqr := rfl
@[simp] theorem popHead_rollback : (popHead s).rollback = s.rollback := rfl
@[simp] theorem popHead_drain : (popHead s).drain = s.drain := rfl
@[simp] theorem popHead_time : (popHead s).time = s.time := rfl
@[simp] theorem popHead_events : (popHead s).events = s.events := rfl
@[simp] theorem popHead_port : (popHead s).port = s.port := rfl
@[simp] theorem popHead_freeCount : (popHead s).freeCount = s.freeCount := rfl

/-! ### `setArbiter` -/

@[simp] theorem setArbiter_pending (l : List Claimant) : (setArbiter l s).pending = s.pending := rfl
@[simp] theorem setArbiter_resetHeld (l : List Claimant) : (setArbiter l s).resetHeld = s.resetHeld := rfl
@[simp] theorem setArbiter_engaged (l : List Claimant) : (setArbiter l s).engaged = s.engaged := rfl
@[simp] theorem setArbiter_host (l : List Claimant) : (setArbiter l s).host = s.host := rfl
@[simp] theorem setArbiter_ingress (l : List Claimant) : (setArbiter l s).ingress = s.ingress := rfl
@[simp] theorem setArbiter_mem (l : List Claimant) : (setArbiter l s).mem = s.mem := rfl
@[simp] theorem setArbiter_windows (l : List Claimant) : (setArbiter l s).windows = s.windows := rfl
@[simp] theorem setArbiter_hold (l : List Claimant) : (setArbiter l s).hold = { s.hold with arbiter := l } := rfl
@[simp] theorem setArbiter_ring (l : List Claimant) : (setArbiter l s).ring = s.ring := rfl
@[simp] theorem setArbiter_session (l : List Claimant) : (setArbiter l s).session = s.session := rfl
@[simp] theorem setArbiter_seqr (l : List Claimant) : (setArbiter l s).seqr = s.seqr := rfl
@[simp] theorem setArbiter_rollback (l : List Claimant) : (setArbiter l s).rollback = s.rollback := rfl
@[simp] theorem setArbiter_drain (l : List Claimant) : (setArbiter l s).drain = s.drain := rfl
@[simp] theorem setArbiter_time (l : List Claimant) : (setArbiter l s).time = s.time := rfl
@[simp] theorem setArbiter_events (l : List Claimant) : (setArbiter l s).events = s.events := rfl
@[simp] theorem setArbiter_port (l : List Claimant) : (setArbiter l s).port = s.port := rfl
@[simp] theorem setArbiter_freeCount (l : List Claimant) : (setArbiter l s).freeCount = s.freeCount := rfl

/-! ### `withdrawClaim` -/

@[simp] theorem withdrawClaim_pending : (withdrawClaim s).pending = s.pending := rfl
@[simp] theorem withdrawClaim_resetHeld : (withdrawClaim s).resetHeld = s.resetHeld := rfl
@[simp] theorem withdrawClaim_engaged : (withdrawClaim s).engaged = s.engaged := rfl
@[simp] theorem withdrawClaim_host : (withdrawClaim s).host = s.host := rfl
@[simp] theorem withdrawClaim_ingress : (withdrawClaim s).ingress = s.ingress := rfl
@[simp] theorem withdrawClaim_mem : (withdrawClaim s).mem = s.mem := rfl
@[simp] theorem withdrawClaim_windows : (withdrawClaim s).windows = s.windows := rfl
@[simp] theorem withdrawClaim_ring : (withdrawClaim s).ring = s.ring := rfl
@[simp] theorem withdrawClaim_session : (withdrawClaim s).session = s.session := rfl
@[simp] theorem withdrawClaim_seqr : (withdrawClaim s).seqr = s.seqr := rfl
@[simp] theorem withdrawClaim_rollback : (withdrawClaim s).rollback = s.rollback := rfl
@[simp] theorem withdrawClaim_drain : (withdrawClaim s).drain = s.drain := rfl
@[simp] theorem withdrawClaim_time : (withdrawClaim s).time = s.time := rfl
@[simp] theorem withdrawClaim_events : (withdrawClaim s).events = s.events := rfl
@[simp] theorem withdrawClaim_port : (withdrawClaim s).port = s.port := rfl
@[simp] theorem withdrawClaim_freeCount : (withdrawClaim s).freeCount = s.freeCount := rfl

/-! ### `closeTag` -/

@[simp] theorem closeTag_pending (t : MemTag) : (closeTag t s).pending = s.pending := rfl
@[simp] theorem closeTag_resetHeld (t : MemTag) : (closeTag t s).resetHeld = s.resetHeld := rfl
@[simp] theorem closeTag_engaged (t : MemTag) : (closeTag t s).engaged = s.engaged := rfl
@[simp] theorem closeTag_host (t : MemTag) : (closeTag t s).host = s.host := rfl
@[simp] theorem closeTag_ingress (t : MemTag) : (closeTag t s).ingress = s.ingress := rfl
@[simp] theorem closeTag_mem (t : MemTag) :
    (closeTag t s).mem =
      { s.mem with outstanding := s.mem.outstanding.filter fun o => o.req.tag != t } := rfl
@[simp] theorem closeTag_windows (t : MemTag) : (closeTag t s).windows = s.windows := rfl
@[simp] theorem closeTag_hold (t : MemTag) : (closeTag t s).hold = s.hold := rfl
@[simp] theorem closeTag_ring (t : MemTag) : (closeTag t s).ring = s.ring := rfl
@[simp] theorem closeTag_session (t : MemTag) : (closeTag t s).session = s.session := rfl
@[simp] theorem closeTag_seqr (t : MemTag) : (closeTag t s).seqr = s.seqr := rfl
@[simp] theorem closeTag_rollback (t : MemTag) : (closeTag t s).rollback = s.rollback := rfl
@[simp] theorem closeTag_drain (t : MemTag) : (closeTag t s).drain = s.drain := rfl
@[simp] theorem closeTag_time (t : MemTag) : (closeTag t s).time = s.time := rfl
@[simp] theorem closeTag_events (t : MemTag) : (closeTag t s).events = s.events := rfl
@[simp] theorem closeTag_port (t : MemTag) : (closeTag t s).port = s.port := rfl
@[simp] theorem closeTag_freeCount (t : MemTag) : (closeTag t s).freeCount = s.freeCount := rfl

/-! ### `setWindow` -/

@[simp] theorem State.setWindow_pending (i : Nat) (w : Window) : (s.setWindow i w).pending = s.pending := rfl
@[simp] theorem State.setWindow_resetHeld (i : Nat) (w : Window) : (s.setWindow i w).resetHeld = s.resetHeld := rfl
@[simp] theorem State.setWindow_engaged (i : Nat) (w : Window) : (s.setWindow i w).engaged = s.engaged := rfl
@[simp] theorem State.setWindow_host (i : Nat) (w : Window) : (s.setWindow i w).host = s.host := rfl
@[simp] theorem State.setWindow_ingress (i : Nat) (w : Window) : (s.setWindow i w).ingress = s.ingress := rfl
@[simp] theorem State.setWindow_mem (i : Nat) (w : Window) : (s.setWindow i w).mem = s.mem := rfl
@[simp] theorem State.setWindow_windows (i : Nat) (w : Window) :
    (s.setWindow i w).windows =
      s.windows.setIfInBounds i w := rfl
@[simp] theorem State.setWindow_hold (i : Nat) (w : Window) : (s.setWindow i w).hold = s.hold := rfl
@[simp] theorem State.setWindow_ring (i : Nat) (w : Window) : (s.setWindow i w).ring = s.ring := rfl
@[simp] theorem State.setWindow_session (i : Nat) (w : Window) : (s.setWindow i w).session = s.session := rfl
@[simp] theorem State.setWindow_seqr (i : Nat) (w : Window) : (s.setWindow i w).seqr = s.seqr := rfl
@[simp] theorem State.setWindow_rollback (i : Nat) (w : Window) : (s.setWindow i w).rollback = s.rollback := rfl
@[simp] theorem State.setWindow_drain (i : Nat) (w : Window) : (s.setWindow i w).drain = s.drain := rfl
@[simp] theorem State.setWindow_time (i : Nat) (w : Window) : (s.setWindow i w).time = s.time := rfl
@[simp] theorem State.setWindow_events (i : Nat) (w : Window) : (s.setWindow i w).events = s.events := rfl
@[simp] theorem State.setWindow_port (i : Nat) (w : Window) : (s.setWindow i w).port = s.port := rfl
@[simp] theorem State.setWindow_freeCount (i : Nat) (w : Window) : (s.setWindow i w).freeCount = s.freeCount := rfl

/-! ### `drainOff` -/

@[simp] theorem drainOff_pending : (drainOff s).pending = s.pending := rfl
@[simp] theorem drainOff_resetHeld : (drainOff s).resetHeld = s.resetHeld := rfl
@[simp] theorem drainOff_engaged : (drainOff s).engaged = s.engaged := rfl
@[simp] theorem drainOff_host : (drainOff s).host = s.host := rfl
@[simp] theorem drainOff_ingress : (drainOff s).ingress = s.ingress := rfl
@[simp] theorem drainOff_mem : (drainOff s).mem = s.mem := rfl
@[simp] theorem drainOff_windows : (drainOff s).windows = s.windows := rfl
@[simp] theorem drainOff_hold : (drainOff s).hold = s.hold := rfl
@[simp] theorem drainOff_ring : (drainOff s).ring = s.ring := rfl
@[simp] theorem drainOff_session : (drainOff s).session = s.session := rfl
@[simp] theorem drainOff_seqr : (drainOff s).seqr = s.seqr := rfl
@[simp] theorem drainOff_rollback : (drainOff s).rollback = s.rollback := rfl
@[simp] theorem drainOff_drain : (drainOff s).drain = Drain.reset := rfl
@[simp] theorem drainOff_time : (drainOff s).time = s.time := rfl
@[simp] theorem drainOff_events : (drainOff s).events = s.events := rfl
@[simp] theorem drainOff_port : (drainOff s).port = s.port := rfl
@[simp] theorem drainOff_freeCount : (drainOff s).freeCount = s.freeCount := rfl

/-! ### `drainClearing` -/

@[simp] theorem drainClearing_pending (e : DrainEnd) : (drainClearing e s).pending = s.pending := rfl
@[simp] theorem drainClearing_resetHeld (e : DrainEnd) : (drainClearing e s).resetHeld = s.resetHeld := rfl
@[simp] theorem drainClearing_engaged (e : DrainEnd) : (drainClearing e s).engaged = s.engaged := rfl
@[simp] theorem drainClearing_host (e : DrainEnd) : (drainClearing e s).host = s.host := rfl
@[simp] theorem drainClearing_ingress (e : DrainEnd) : (drainClearing e s).ingress = s.ingress := rfl
@[simp] theorem drainClearing_mem (e : DrainEnd) : (drainClearing e s).mem = s.mem := rfl
@[simp] theorem drainClearing_windows (e : DrainEnd) : (drainClearing e s).windows = s.windows := rfl
@[simp] theorem drainClearing_hold (e : DrainEnd) : (drainClearing e s).hold = s.hold := rfl
@[simp] theorem drainClearing_ring (e : DrainEnd) : (drainClearing e s).ring = s.ring := rfl
@[simp] theorem drainClearing_session (e : DrainEnd) : (drainClearing e s).session = s.session := rfl
@[simp] theorem drainClearing_seqr (e : DrainEnd) : (drainClearing e s).seqr = s.seqr := rfl
@[simp] theorem drainClearing_rollback (e : DrainEnd) : (drainClearing e s).rollback = s.rollback := rfl
@[simp] theorem drainClearing_drain (e : DrainEnd) :
    (drainClearing e s).drain =
      { s.drain.emptied with state := .stopping, stopCause := some .clear, endState := some e } := rfl
@[simp] theorem drainClearing_time (e : DrainEnd) : (drainClearing e s).time = s.time := rfl
@[simp] theorem drainClearing_events (e : DrainEnd) : (drainClearing e s).events = s.events := rfl
@[simp] theorem drainClearing_port (e : DrainEnd) : (drainClearing e s).port = s.port := rfl
@[simp] theorem drainClearing_freeCount (e : DrainEnd) : (drainClearing e s).freeCount = s.freeCount := rfl

/-! ### `seqIdle` -/

@[simp] theorem seqIdle_pending : (seqIdle s).pending = s.pending := rfl
@[simp] theorem seqIdle_resetHeld : (seqIdle s).resetHeld = s.resetHeld := rfl
@[simp] theorem seqIdle_engaged : (seqIdle s).engaged = s.engaged := rfl
@[simp] theorem seqIdle_host : (seqIdle s).host = s.host := rfl
@[simp] theorem seqIdle_ingress : (seqIdle s).ingress = s.ingress := rfl
@[simp] theorem seqIdle_mem : (seqIdle s).mem = s.mem := rfl
@[simp] theorem seqIdle_windows : (seqIdle s).windows = s.windows := rfl
@[simp] theorem seqIdle_hold : (seqIdle s).hold = s.hold := rfl
@[simp] theorem seqIdle_ring : (seqIdle s).ring = s.ring := rfl
@[simp] theorem seqIdle_session : (seqIdle s).session = s.session := rfl
@[simp] theorem seqIdle_seqr :
    (seqIdle s).seqr =
      { s.seqr with state := .idle, stage := 0, count := 0, elapsed := 0 } := rfl
@[simp] theorem seqIdle_rollback : (seqIdle s).rollback = s.rollback := rfl
@[simp] theorem seqIdle_drain : (seqIdle s).drain = s.drain := rfl
@[simp] theorem seqIdle_time : (seqIdle s).time = s.time := rfl
@[simp] theorem seqIdle_events : (seqIdle s).events = s.events := rfl
@[simp] theorem seqIdle_port : (seqIdle s).port = s.port := rfl
@[simp] theorem seqIdle_freeCount : (seqIdle s).freeCount = s.freeCount := rfl

/-! ### `endRollback` -/

@[simp] theorem endRollback_pending (r : RbResult) : (endRollback r s).pending = s.pending := rfl
@[simp] theorem endRollback_resetHeld (r : RbResult) : (endRollback r s).resetHeld = s.resetHeld := rfl
@[simp] theorem endRollback_engaged (r : RbResult) : (endRollback r s).engaged = s.engaged := rfl
@[simp] theorem endRollback_host (r : RbResult) : (endRollback r s).host = s.host := rfl
@[simp] theorem endRollback_ingress (r : RbResult) : (endRollback r s).ingress = s.ingress := rfl
@[simp] theorem endRollback_mem (r : RbResult) : (endRollback r s).mem = s.mem := rfl
@[simp] theorem endRollback_windows (r : RbResult) : (endRollback r s).windows = s.windows := rfl
@[simp] theorem endRollback_hold (r : RbResult) : (endRollback r s).hold = s.hold := rfl
@[simp] theorem endRollback_ring (r : RbResult) : (endRollback r s).ring = s.ring := rfl
@[simp] theorem endRollback_session (r : RbResult) : (endRollback r s).session = s.session := rfl
@[simp] theorem endRollback_seqr (r : RbResult) : (endRollback r s).seqr = s.seqr := rfl
@[simp] theorem endRollback_rollback (r : RbResult) :
    (endRollback r s).rollback =
      { s.rollback with state := .idle, result := r, pendingResult := none } := rfl
@[simp] theorem endRollback_drain (r : RbResult) : (endRollback r s).drain = s.drain := rfl
@[simp] theorem endRollback_time (r : RbResult) : (endRollback r s).time = s.time := rfl
@[simp] theorem endRollback_events (r : RbResult) :
    (endRollback r s).events =
      { s.events with pending := s.events.pending ||| Event.rollbackDone.set } := rfl
@[simp] theorem endRollback_port (r : RbResult) : (endRollback r s).port = s.port := rfl
@[simp] theorem endRollback_freeCount (r : RbResult) : (endRollback r s).freeCount = s.freeCount := rfl

/-! ### `markRestored` -/

@[simp] theorem markRestored_pending : (markRestored s).pending = s.pending := rfl
@[simp] theorem markRestored_resetHeld : (markRestored s).resetHeld = s.resetHeld := rfl
@[simp] theorem markRestored_engaged : (markRestored s).engaged = s.engaged := rfl
@[simp] theorem markRestored_host : (markRestored s).host = s.host := rfl
@[simp] theorem markRestored_ingress : (markRestored s).ingress = s.ingress := rfl
@[simp] theorem markRestored_mem : (markRestored s).mem = s.mem := rfl
@[simp] theorem markRestored_windows : (markRestored s).windows = s.windows := rfl
@[simp] theorem markRestored_hold : (markRestored s).hold = s.hold := rfl
@[simp] theorem markRestored_session : (markRestored s).session = s.session := rfl
@[simp] theorem markRestored_seqr : (markRestored s).seqr = s.seqr := rfl
@[simp] theorem markRestored_rollback :
    (markRestored s).rollback =
      { s.rollback with restored := s.rollback.restored + 1 } := rfl
@[simp] theorem markRestored_drain : (markRestored s).drain = s.drain := rfl
@[simp] theorem markRestored_time : (markRestored s).time = s.time := rfl
@[simp] theorem markRestored_events : (markRestored s).events = s.events := rfl
@[simp] theorem markRestored_port : (markRestored s).port = s.port := rfl
@[simp] theorem markRestored_freeCount : (markRestored s).freeCount = s.freeCount := rfl

/-! ### `mapItem` -/

@[simp] theorem mapItem_pending (k : Nat) (g : DrainItem → DrainItem) : (mapItem k g s).pending = s.pending := rfl
@[simp] theorem mapItem_resetHeld (k : Nat) (g : DrainItem → DrainItem) :
    (mapItem k g s).resetHeld =
      s.resetHeld := rfl
@[simp] theorem mapItem_engaged (k : Nat) (g : DrainItem → DrainItem) : (mapItem k g s).engaged = s.engaged := rfl
@[simp] theorem mapItem_host (k : Nat) (g : DrainItem → DrainItem) : (mapItem k g s).host = s.host := rfl
@[simp] theorem mapItem_ingress (k : Nat) (g : DrainItem → DrainItem) : (mapItem k g s).ingress = s.ingress := rfl
@[simp] theorem mapItem_mem (k : Nat) (g : DrainItem → DrainItem) : (mapItem k g s).mem = s.mem := rfl
@[simp] theorem mapItem_windows (k : Nat) (g : DrainItem → DrainItem) : (mapItem k g s).windows = s.windows := rfl
@[simp] theorem mapItem_hold (k : Nat) (g : DrainItem → DrainItem) : (mapItem k g s).hold = s.hold := rfl
@[simp] theorem mapItem_ring (k : Nat) (g : DrainItem → DrainItem) : (mapItem k g s).ring = s.ring := rfl
@[simp] theorem mapItem_session (k : Nat) (g : DrainItem → DrainItem) : (mapItem k g s).session = s.session := rfl
@[simp] theorem mapItem_seqr (k : Nat) (g : DrainItem → DrainItem) : (mapItem k g s).seqr = s.seqr := rfl
@[simp] theorem mapItem_rollback (k : Nat) (g : DrainItem → DrainItem) : (mapItem k g s).rollback = s.rollback := rfl
@[simp] theorem mapItem_drain (k : Nat) (g : DrainItem → DrainItem) :
    (mapItem k g s).drain =
      { s.drain with inFlight := s.drain.inFlight.map fun it => if it.first = k then g it else it } := rfl
@[simp] theorem mapItem_time (k : Nat) (g : DrainItem → DrainItem) : (mapItem k g s).time = s.time := rfl
@[simp] theorem mapItem_events (k : Nat) (g : DrainItem → DrainItem) : (mapItem k g s).events = s.events := rfl
@[simp] theorem mapItem_port (k : Nat) (g : DrainItem → DrainItem) : (mapItem k g s).port = s.port := rfl
@[simp] theorem mapItem_freeCount (k : Nat) (g : DrainItem → DrainItem) :
    (mapItem k g s).freeCount =
      s.freeCount := rfl

/-! ### `issue` -/

@[simp] theorem issue_pending (m : MemReq) (k : Option Nat) (who : Requester) :
    (issue m k who s).pending =
      s.pending := rfl
@[simp] theorem issue_resetHeld (m : MemReq) (k : Option Nat) (who : Requester) :
    (issue m k who s).resetHeld =
      s.resetHeld := rfl
@[simp] theorem issue_engaged (m : MemReq) (k : Option Nat) (who : Requester) :
    (issue m k who s).engaged =
      s.engaged := rfl
@[simp] theorem issue_host (m : MemReq) (k : Option Nat) (who : Requester) : (issue m k who s).host = s.host := rfl
@[simp] theorem issue_ingress (m : MemReq) (k : Option Nat) (who : Requester) :
    (issue m k who s).ingress =
      s.ingress := rfl
@[simp] theorem issue_mem (m : MemReq) (k : Option Nat) (who : Requester) :
    (issue m k who s).mem =
      { s.mem with outstanding := s.mem.outstanding ++ [{ req := m, item := k }], sent := s.mem.sent ++ [m], lastGrant := who } := rfl
@[simp] theorem issue_windows (m : MemReq) (k : Option Nat) (who : Requester) :
    (issue m k who s).windows =
      s.windows := rfl
@[simp] theorem issue_hold (m : MemReq) (k : Option Nat) (who : Requester) : (issue m k who s).hold = s.hold := rfl
@[simp] theorem issue_ring (m : MemReq) (k : Option Nat) (who : Requester) : (issue m k who s).ring = s.ring := rfl
@[simp] theorem issue_session (m : MemReq) (k : Option Nat) (who : Requester) :
    (issue m k who s).session =
      s.session := rfl
@[simp] theorem issue_seqr (m : MemReq) (k : Option Nat) (who : Requester) : (issue m k who s).seqr = s.seqr := rfl
@[simp] theorem issue_rollback (m : MemReq) (k : Option Nat) (who : Requester) :
    (issue m k who s).rollback =
      s.rollback := rfl
@[simp] theorem issue_drain (m : MemReq) (k : Option Nat) (who : Requester) : (issue m k who s).drain = s.drain := rfl
@[simp] theorem issue_time (m : MemReq) (k : Option Nat) (who : Requester) : (issue m k who s).time = s.time := rfl
@[simp] theorem issue_events (m : MemReq) (k : Option Nat) (who : Requester) :
    (issue m k who s).events =
      s.events := rfl
@[simp] theorem issue_port (m : MemReq) (k : Option Nat) (who : Requester) : (issue m k who s).port = s.port := rfl
@[simp] theorem issue_freeCount (m : MemReq) (k : Option Nat) (who : Requester) :
    (issue m k who s).freeCount =
      s.freeCount := rfl

/-! ### `releaseThrough` -/

@[simp] theorem releaseThrough_pending (n : Nat) : (releaseThrough n s).pending = s.pending := rfl
@[simp] theorem releaseThrough_resetHeld (n : Nat) : (releaseThrough n s).resetHeld = s.resetHeld := rfl
@[simp] theorem releaseThrough_engaged (n : Nat) : (releaseThrough n s).engaged = s.engaged := rfl
@[simp] theorem releaseThrough_host (n : Nat) : (releaseThrough n s).host = s.host := rfl
@[simp] theorem releaseThrough_ingress (n : Nat) : (releaseThrough n s).ingress = s.ingress := rfl
@[simp] theorem releaseThrough_mem (n : Nat) : (releaseThrough n s).mem = s.mem := rfl
@[simp] theorem releaseThrough_windows (n : Nat) : (releaseThrough n s).windows = s.windows := rfl
@[simp] theorem releaseThrough_hold (n : Nat) : (releaseThrough n s).hold = s.hold := rfl
@[simp] theorem releaseThrough_ring (n : Nat) :
    (releaseThrough n s).ring =
      { s.ring with recs := s.ring.recs.dropWhile fun r => decide (r.seq ≤ n) } := rfl
@[simp] theorem releaseThrough_session (n : Nat) : (releaseThrough n s).session = s.session := rfl
@[simp] theorem releaseThrough_seqr (n : Nat) : (releaseThrough n s).seqr = s.seqr := rfl
@[simp] theorem releaseThrough_rollback (n : Nat) : (releaseThrough n s).rollback = s.rollback := rfl
@[simp] theorem releaseThrough_drain (n : Nat) : (releaseThrough n s).drain = s.drain := rfl
@[simp] theorem releaseThrough_time (n : Nat) : (releaseThrough n s).time = s.time := rfl
@[simp] theorem releaseThrough_events (n : Nat) : (releaseThrough n s).events = s.events := rfl
@[simp] theorem releaseThrough_port (n : Nat) : (releaseThrough n s).port = s.port := rfl
@[simp] theorem releaseThrough_freeCount (n : Nat) : (releaseThrough n s).freeCount = s.freeCount := rfl

/-! ### `framed` -/

@[simp] theorem framed_pending (f : Frame) : (framed f s).pending = s.pending := rfl
@[simp] theorem framed_resetHeld (f : Frame) : (framed f s).resetHeld = s.resetHeld := rfl
@[simp] theorem framed_engaged (f : Frame) : (framed f s).engaged = s.engaged := rfl
@[simp] theorem framed_host (f : Frame) : (framed f s).host = s.host := rfl
@[simp] theorem framed_ingress (f : Frame) : (framed f s).ingress = s.ingress := rfl
@[simp] theorem framed_mem (f : Frame) : (framed f s).mem = s.mem := rfl
@[simp] theorem framed_windows (f : Frame) : (framed f s).windows = s.windows := rfl
@[simp] theorem framed_hold (f : Frame) : (framed f s).hold = s.hold := rfl
@[simp] theorem framed_ring (f : Frame) : (framed f s).ring = s.ring := rfl
@[simp] theorem framed_session (f : Frame) : (framed f s).session = s.session := rfl
@[simp] theorem framed_seqr (f : Frame) : (framed f s).seqr = s.seqr := rfl
@[simp] theorem framed_rollback (f : Frame) : (framed f s).rollback = s.rollback := rfl
@[simp] theorem framed_drain (f : Frame) : (framed f s).drain = s.drain := rfl
@[simp] theorem framed_time (f : Frame) : (framed f s).time = s.time := rfl
@[simp] theorem framed_events (f : Frame) : (framed f s).events = s.events := rfl
@[simp] theorem framed_port (f : Frame) :
    (framed f s).port =
      { s.port with inFrame := false, rx := Receiver.empty, awaitRise := false, shifted := s.port.shiftOut (1 + f.args.length) f.left } := rfl
@[simp] theorem framed_freeCount (f : Frame) : (framed f s).freeCount = s.freeCount := rfl

/-! ### `answered` -/

@[simp] theorem answered_pending (o : PortOutcome) (r : List Byte) : (answered o r s).pending = s.pending := rfl
@[simp] theorem answered_resetHeld (o : PortOutcome) (r : List Byte) : (answered o r s).resetHeld = s.resetHeld := rfl
@[simp] theorem answered_engaged (o : PortOutcome) (r : List Byte) : (answered o r s).engaged = s.engaged := rfl
@[simp] theorem answered_host (o : PortOutcome) (r : List Byte) : (answered o r s).host = s.host := rfl
@[simp] theorem answered_ingress (o : PortOutcome) (r : List Byte) : (answered o r s).ingress = s.ingress := rfl
@[simp] theorem answered_mem (o : PortOutcome) (r : List Byte) : (answered o r s).mem = s.mem := rfl
@[simp] theorem answered_windows (o : PortOutcome) (r : List Byte) : (answered o r s).windows = s.windows := rfl
@[simp] theorem answered_hold (o : PortOutcome) (r : List Byte) : (answered o r s).hold = s.hold := rfl
@[simp] theorem answered_ring (o : PortOutcome) (r : List Byte) : (answered o r s).ring = s.ring := rfl
@[simp] theorem answered_session (o : PortOutcome) (r : List Byte) : (answered o r s).session = s.session := rfl
@[simp] theorem answered_seqr (o : PortOutcome) (r : List Byte) : (answered o r s).seqr = s.seqr := rfl
@[simp] theorem answered_rollback (o : PortOutcome) (r : List Byte) : (answered o r s).rollback = s.rollback := rfl
@[simp] theorem answered_drain (o : PortOutcome) (r : List Byte) : (answered o r s).drain = s.drain := rfl
@[simp] theorem answered_time (o : PortOutcome) (r : List Byte) : (answered o r s).time = s.time := rfl
@[simp] theorem answered_events (o : PortOutcome) (r : List Byte) : (answered o r s).events = s.events := rfl
@[simp] theorem answered_port (o : PortOutcome) (r : List Byte) :
    (answered o r s).port =
      { s.port with heldOutcome := o, heldResult := r } := rfl
@[simp] theorem answered_freeCount (o : PortOutcome) (r : List Byte) : (answered o r s).freeCount = s.freeCount := rfl

end Sys2Proof.Machine
end

