-- ==== Sys2Proof/Laws/Work.lean ====
section
/-! SUPPORT. What the part's own work never changes: one relation between the states before and after, and one lemma for
each shared operation that the relation holds of it. A rule of the form "only this command changes that" rests on these. -/

namespace Sys2Proof.Machine

/-- `t` comes from `s` by work of the part: nothing that a command alone sets has changed, and no event was lost. -/
structure Work (s t : State) : Prop where
  pending : t.pending = s.pending
  resetHeld : t.resetHeld = s.resetHeld
  engaged : t.engaged = s.engaged
  windows : t.windows = s.windows
  time : t.time = s.time
  port : t.port = s.port
  freeCount : t.freeCount = s.freeCount
  started : t.host.started = s.host.started
  enabled : t.events.enabled = s.events.enabled
  raised : ∀ k, s.events.pending.getLsbD k = true → t.events.pending.getLsbD k = true
  credit : t.mem.credit = s.mem.credit
  stages : t.seqr.stages = s.seqr.stages
  length : t.seqr.length = s.seqr.length
  policy : t.ring.policy = s.ring.policy
  threshold : t.ring.threshold = s.ring.threshold
  kind : t.session.kind = s.session.kind
  p : t.session.p = s.session.p
  q : t.session.q = s.session.q
  guards : s.session.guardsInForce = true → t.session.guardsInForce = true
  mode : t.rollback.mode = s.rollback.mode
  first : t.rollback.first = s.rollback.first

theorem Work.refl (s : State) : Work s s := by constructor <;> simp

theorem Work.trans {s t u : State} (h : Work s t) (k : Work t u) : Work s u where
  pending := k.pending.trans h.pending
  resetHeld := k.resetHeld.trans h.resetHeld
  engaged := k.engaged.trans h.engaged
  windows := k.windows.trans h.windows
  time := k.time.trans h.time
  port := k.port.trans h.port
  freeCount := k.freeCount.trans h.freeCount
  started := k.started.trans h.started
  enabled := k.enabled.trans h.enabled
  raised i hi := k.raised i (h.raised i hi)
  credit := k.credit.trans h.credit
  stages := k.stages.trans h.stages
  length := k.length.trans h.length
  policy := k.policy.trans h.policy
  threshold := k.threshold.trans h.threshold
  kind := k.kind.trans h.kind
  p := k.p.trans h.p
  q := k.q.trans h.q
  guards hg := k.guards (h.guards hg)
  mode := k.mode.trans h.mode
  first := k.first.trans h.first

/-! ### Plain updates -/

theorem raise_work (e : Event) (s : State) : Work s (raise e s) := by
  constructor <;> simp
  tauto

theorem raiseIf_work (c : Bool) (e : Event) (s : State) : Work s (raiseIf c e s) := by
  cases c
  · exact Work.refl s
  · exact raise_work e s

theorem offerFault_work (k : FaultKind) (p : FaultPort) (t : MemTag) (a : Option Addr) (s : State) :
    Work s (offerFault k p t a s) := by
  unfold offerFault; split <;> constructor <;> simp

theorem respond_work (t : HostTag) (st : HostStatus) (d : List Byte) (s : State) : Work s (respond t st d s) := by
  constructor <;> simp

theorem violation_work (r : HostReq) (s : State) : Work s (violation r s) :=
  (raise_work _ s).trans (offerFault_work ..)

theorem enqueue_work (m : MemReq) (s : State) : Work s (enqueue m s) := by constructor <;> simp

theorem setEntry_work (i : Nat) (e : HoldEntry) (s : State) : Work s (s.setEntry i e) := by constructor <;> simp

theorem popHead_work (s : State) : Work s (popHead s) := by constructor <;> simp

theorem setArbiter_work (l : List Claimant) (s : State) : Work s (setArbiter l s) := by constructor <;> simp

theorem withdrawClaim_work (s : State) : Work s (withdrawClaim s) := by constructor <;> simp

theorem closeTag_work (t : MemTag) (s : State) : Work s (closeTag t s) := by constructor <;> simp

theorem park_work (i : Nat) (x : Parked) (s : State) : Work s (park i x s) := by
  unfold park; split
  · exact Work.refl s
  · exact setEntry_work ..

/-! ### The hold table -/

theorem own_work (i : Nat) (w : HeldWrite) (l : List Parked) (s : State) : Work s (own i w l s) :=
  (setEntry_work ..).trans (enqueue_work ..)

theorem takeEntry_work (i : Nat) (w : HeldWrite) (s : State) : Work s (takeEntry i w s) := by
  unfold takeEntry; split
  · exact (own_work ..).trans (setArbiter_work ..)
  · exact own_work ..

theorem queueRestore_work (s : State) : Work s (queueRestore s) := by
  have h : Work s { s with rollback := { s.rollback with state := .restoring } } := by constructor <;> simp
  unfold queueRestore
  dsimp only
  split
  · exact h.trans (enqueue_work ..)
  · exact h

theorem holdForCheck_work (i : Nat) (a : Addr) (l : List Parked) (s : State) : Work s (holdForCheck i a l s) := by
  have h : Work s { s with rollback := { s.rollback with state := .checking } } := by constructor <;> simp
  exact (h.trans (setEntry_work ..)).trans (enqueue_work ..)

theorem offerFree_work (i : Nat) : ∀ (l : List Claimant) (s : State), Work s (offerFree i l s)
  | [], s => setEntry_work ..
  | .head :: rest, s => by
    unfold offerFree; split
    · exact ((setArbiter_work rest s).trans (popHead_work _)).trans (takeEntry_work ..)
    · exact (setArbiter_work rest s).trans (setEntry_work ..)
  | .rollback c :: rest, s => by
    unfold offerFree
    split
    · split
      · dsimp only
        have h := (setArbiter_work (rest.filter fun x => !x.isHead) s).trans (popHead_work _)
        split
        · exact (h.trans (queueRestore_work _)).trans (own_work ..)
        · exact h.trans (holdForCheck_work ..)
        · exact h.trans (holdForCheck_work ..)
      · have h := setArbiter_work rest s
        split
        · exact (h.trans (queueRestore_work _)).trans (offerFree_work i rest _)
        · exact h.trans (holdForCheck_work ..)
        · exact h.trans (holdForCheck_work ..)
    · have h := setArbiter_work rest s
      split
      · exact (h.trans (queueRestore_work _)).trans (offerFree_work i rest _)
      · exact h.trans (holdForCheck_work ..)
      · exact h.trans (holdForCheck_work ..)

theorem walk_work (i : Nat) : ∀ (l : List Parked) (s : State), Work s (walk i l s)
  | [], s => offerFree_work ..
  | .host r cands :: rest, s => by
    unfold walk; split
    · exact (enqueue_work ..).trans (walk_work i rest _)
    · exact own_work ..
  | .claim c :: rest, s => by
    unfold walk; split
    · exact (queueRestore_work s).trans (walk_work i rest _)
    · exact holdForCheck_work ..
    · exact holdForCheck_work ..

theorem release_work (i : Nat) (s : State) : Work s (release i s) := by
  unfold release; split
  · exact Work.refl s
  · exact walk_work ..

theorem releaseChecking_work (s : State) : Work s (releaseChecking s) := by
  unfold releaseChecking; split
  · exact release_work ..
  · exact Work.refl s

theorem releaseSlots_work (b : Bool) : ∀ (l : List Nat) (s : State), Work s (releaseSlots b l s)
  | [], s => by unfold releaseSlots; constructor <;> simp
  | i :: rest, s => by
    have h : Work s (if b then { s with ring := { s.ring with gap := saturate (s.ring.gap + 1) } } else s) := by
      split
      · constructor <;> simp
      · exact Work.refl s
    unfold releaseSlots
    dsimp only
    split
    · exact ((h.trans (enqueue_work ..)).trans (release_work ..)).trans (releaseSlots_work b rest _)
    · exact h.trans (releaseSlots_work b rest _)
    · exact h.trans (releaseSlots_work b rest _)
    · exact h.trans (releaseSlots_work b rest _)

/-! ### Stops -/

theorem drain_work (d : Drain) (s : State) : Work s { s with drain := d } := by constructor <;> simp

theorem drainStop_work (s : State) : Work s (drainStop s) := by
  unfold drainStop; split
  · split <;> exact drain_work ..
  · exact Work.refl s

theorem drainOff_work (s : State) : Work s (drainOff s) := drain_work ..

theorem drainClearing_work (e : DrainEnd) (s : State) : Work s (drainClearing e s) := drain_work ..

theorem drainClearWorking_work (e : DrainEnd) (s : State) : Work s (drainClearWorking e s) := by
  unfold drainClearWorking; split
  · exact drain_work ..
  · exact drainClearing_work ..

theorem drainClearSession_work (s : State) : Work s (drainClearSession s) := by
  unfold drainClearSession; split
  · exact Work.refl s
  · exact Work.refl s
  · exact drain_work ..
  · exact drainClearWorking_work ..
  · exact drainClearWorking_work ..
  · split
    · exact drainClearing_work ..
    · exact drainClearWorking_work ..

theorem drainClearAll_work (s : State) : Work s (drainClearAll s) := by
  unfold drainClearAll; split
  · exact drainOff_work s
  · exact drainClearing_work ..

theorem seqIdle_work (s : State) : Work s (seqIdle s) := by constructor <;> simp

theorem stopSession_work (r : StopReason) (s : State) : Work s (stopSession r s) := by
  have h : Work s { s with session := { s.session with state := .stopped, stopReason := some r } } := by
    constructor <;> simp
  exact ((h.trans (releaseSlots_work ..)).trans (seqIdle_work _)).trans (drainStop_work _)

/-! ### The ring -/

theorem pushRec_work (b : Bool) (body : RecBody) (time : Time) (s : State) : Work s (pushRec b body time s) := by
  unfold pushRec
  refine Work.trans ?_ (raiseIf_work ..)
  constructor <;> simp

theorem exhaust_work (s : State) : Work s (exhaust s) := (raise_work ..).trans (stopSession_work ..)

theorem appendRec_work (b : Bool) (body : RecBody) (time : Time) (s : State) : Work s (appendRec b body time s) := by
  unfold appendRec; split
  · exact (pushRec_work ..).trans (exhaust_work _)
  · exact pushRec_work ..

theorem ringGap_work (n : Nat) (s : State) : Work s { s with ring := { s.ring with gap := n } } := by constructor <;> simp

theorem appendGap_work (n : Nat) (s : State) : Work s (appendGap n s) := (ringGap_work 0 s).trans (appendRec_work ..)

theorem appendSkip_work (body : RecBody) (time : Time) (s : State) : Work s (appendSkip body time s) := by
  unfold appendSkip; split
  · exact (ringGap_work ..).trans (raise_work ..)
  split
  · exact appendRec_work ..
  split
  · exact appendGap_work ..
  dsimp only; split
  · exact (appendGap_work ..).trans (appendRec_work ..)
  · exact appendGap_work ..

theorem appendHold_work (d : Draft) (s : State) : Work s (appendHold d s).1 := by
  unfold appendHold; split
  · exact raise_work ..
  split
  · exact appendRec_work ..
  dsimp only; split
  · split
    · exact appendGap_work ..
    · exact (appendGap_work ..).trans (appendRec_work ..)
  · exact appendGap_work ..

theorem slotList_work (l : List Nat) (s : State) : Work s { s with ring := { s.ring with slotList := l } } := by
  constructor <;> simp

theorem serveSlot_work (i : Nat) (w : HeldWrite) (d : Draft) (rest : List Nat) (s : State) :
    Work s (serveSlot i w d rest s) :=
  (((slotList_work rest s).trans (appendRec_work ..)).trans (enqueue_work ..)).trans (release_work ..)

theorem serveList_work : ∀ (l : List Nat) (s : State), Work s (serveList l s)
  | [], s => Work.refl s
  | i :: rest, s => by
    unfold serveList; split
    · split
      · split
        · exact (serveSlot_work ..).trans (serveList_work rest _)
        · dsimp only; split
          · exact ((appendGap_work ..).trans (serveSlot_work ..)).trans (serveList_work rest _)
          · exact appendGap_work ..
      · exact Work.refl s
      · exact Work.refl s
      · exact Work.refl s
    · exact Work.refl s

theorem serveSlots_work (s : State) : Work s (serveSlots s) := serveList_work ..

theorem appendArmed_work (body : RecBody) (time : Time) (s : State) : Work s (appendArmed body time s) := by
  unfold appendArmed; split
  · exact Work.refl s
  · exact appendRec_work ..

theorem sessionPost_work (n : Nat) (s : State) : Work s { s with session := { s.session with post := n } } := by
  constructor <;> simp

theorem appendFired_work (body : RecBody) (time : Time) (s : State) : Work s (appendFired body time s) := by
  have h := (pushRec_work false body time s).trans (sessionPost_work ((pushRec false body time s).session.post + 1) _)
  unfold appendFired; dsimp only; split
  · exact h.trans (exhaust_work _)
  split
  · refine h.trans (Work.trans ?_ (raise_work ..))
    constructor <;> simp
  · exact h

theorem appendRefused_work (info : WriteInfo) (s : State) : Work s (appendRefused info s) := by
  unfold appendRefused; split
  · exact appendSkip_work ..
  · exact appendArmed_work ..
  · exact appendFired_work ..
  · exact Work.refl s
  · exact Work.refl s
  · exact Work.refl s

theorem appendWrite_work (d : Draft) (s : State) : Work s (appendWrite d s).1 := by
  unfold appendWrite; split
  · split
    · exact appendHold_work ..
    · exact appendSkip_work ..
  · exact appendArmed_work ..
  · exact appendFired_work ..
  · exact Work.refl s
  · exact Work.refl s
  · exact Work.refl s

/-- What the marker that takes the last number does after the fire (R47). -/
theorem markerStop_work (b : Prop) [Decidable b] (s : State) :
    Work s (if b then (if s.session.state = .fired then exhaust s else raise .seqExhausted s) else s) := by
  split
  · split
    · exact exhaust_work s
    · exact raise_work ..
  · exact Work.refl s

theorem fire_work (c : Cause) (s : State) : Work s (fire c s) := by
  unfold fire
  have h := pushRec_work false (.trigger c) s.time.counter s
  generalize pushRec false (.trigger c) s.time.counter s = s0 at h ⊢
  dsimp only
  have h2 : Work s (raiseIf (s0.session.q == 0) .captured (raise .fired
      { s0 with
        session := { s0.session with
          state := if s0.session.q = 0 then .captured else .fired, post := 0, guardsInForce := true }
        seqr := { s0.seqr with state := .done, elapsed := 0 } })) := by
    refine h.trans (Work.trans ?_ ((raise_work ..).trans (raiseIf_work ..)))
    constructor <;> simp
  exact h2.trans (markerStop_work _ _)

theorem takeCount_work (s : State) : Work s (takeCount s) := by
  unfold takeCount; split
  · constructor <;> simp
  split
  · constructor <;> simp
  · refine Work.trans ?_ (fire_work ..)
    constructor <;> simp

theorem countStep_work (b : Bool) (s : State) : Work s (countStep b s) := by
  unfold countStep; split
  · exact takeCount_work s
  · exact Work.refl s

/-! ### Resolution -/

theorem waitForSlot_work (i : Nat) (a : Addr) (w : HeldWrite) (old : Option (List Byte)) (d : Draft) (l : List Parked)
    (s : State) : Work s (waitForSlot i a w old d l s) :=
  (slotList_work (s.ring.slotList ++ [i]) s).trans (by constructor <;> simp [waitForSlot])

theorem finishAhead_work (i : Nat) (w : HeldWrite) (s : State) : Work s (finishAhead i w s) :=
  (enqueue_work ..).trans (release_work ..)

theorem resolveRefused_work (i : Nat) (w : HeldWrite) (old : Option (List Byte)) (hits : Set16) (s : State) :
    Work s (resolveRefused i w old hits s) := by
  unfold resolveRefused; dsimp only
  refine Work.trans ?_ (release_work ..)
  refine Work.trans ?_ (respond_work ..)
  refine Work.trans ?_ (countStep_work ..)
  split
  · exact (raise_work ..).trans (appendRefused_work ..)
  · exact raise_work ..

theorem resolveAhead_work (i : Nat) (a : Addr) (w : HeldWrite) (old : Option (List Byte)) (l : List Parked) (hits : Set16)
    (s : State) : Work s (resolveAhead i a w old l hits s) := by
  unfold resolveAhead; dsimp only
  split
  · have h := appendWrite_work { time := s.time.counter, info := recordInfo w (s.recordSet hits) old } s
    split
    · rename_i s1 he
      rw [he] at h
      exact h.trans (waitForSlot_work ..)
    · rename_i s1 he
      rw [he] at h
      exact h.trans ((countStep_work ..).trans (finishAhead_work ..))
  · exact (countStep_work ..).trans (finishAhead_work ..)

theorem resolve_work (i : Nat) (a : Addr) (w : HeldWrite) (old : Option (List Byte)) (l : List Parked) (s : State) :
    Work s (resolve i a w old l s) := by
  unfold resolve; dsimp only
  split
  · exact resolveRefused_work ..
  · exact resolveAhead_work ..

/-! ### Rollback -/

theorem endRollback_work (r : RbResult) (s : State) : Work s (endRollback r s) := by
  unfold endRollback
  refine Work.trans ?_ (raise_work ..)
  constructor <;> simp

theorem rollbackState_work (st : RbState) (s : State) : Work s { s with rollback := { s.rollback with state := st } } := by
  constructor <;> simp

theorem claimLine_work (a : Addr) (s : State) : Work s (claimLine a s) := by
  unfold claimLine; dsimp only; split
  · exact (rollbackState_work ..).trans (park_work ..)
  split
  · split
    · exact queueRestore_work s
    · exact holdForCheck_work ..
    · exact holdForCheck_work ..
  · exact (rollbackState_work ..).trans (setArbiter_work ..)

theorem visit_work : ∀ (n : Nat) (s : State), Work s (visit n s)
  | 0, s => by
    unfold visit; split
    · exact claimLine_work ..
    · refine Work.trans ?_ (endRollback_work ..)
      constructor <;> simp
  | n + 1, s => by
    unfold visit; split
    · exact claimLine_work ..
    · refine Work.trans ?_ (visit_work n _)
      constructor <;> simp

theorem advance_work (s : State) : Work s (advance s) := by
  unfold advance; split
  · exact endRollback_work ..
  · refine Work.trans ?_ (visit_work ..)
    constructor <;> simp

theorem conflict_work (s : State) : Work s (conflict s) := by
  have h : Work s (releaseChecking { s with rollback := { s.rollback with conflicts := s.rollback.conflicts + 1 } }) := by
    refine Work.trans ?_ (releaseChecking_work _)
    constructor <;> simp
  unfold conflict; dsimp only; split
  · exact h.trans (advance_work _)
  · exact h.trans (advance_work _)
  · exact h.trans (endRollback_work ..)

theorem rollbackFault_work (a : Addr) (s : State) : Work s (rollbackFault a s) := offerFault_work ..

theorem checkResponded_work (a : Addr) (st : MemStatus) (l : List Byte) (s : State) : Work s (checkResponded a st l s) := by
  unfold checkResponded; split
  · split
    · split
      · exact (queueRestore_work s).trans (releaseChecking_work _)
      · exact conflict_work s
    · exact ((releaseChecking_work s).trans (endRollback_work ..)).trans (rollbackFault_work ..)
  · exact endRollback_work ..
  · exact Work.refl s
  · exact Work.refl s
  · exact Work.refl s

theorem markRestored_work (s : State) : Work s (markRestored s) := by constructor <;> simp [markRestored]

theorem restoreResponded_work (a : Addr) (st : MemStatus) (s : State) : Work s (restoreResponded a st s) := by
  unfold restoreResponded; split
  · split
    · exact (markRestored_work s).trans (advance_work _)
    · exact (endRollback_work ..).trans (rollbackFault_work ..)
  · split
    · exact (markRestored_work s).trans (endRollback_work ..)
    · exact (rollbackFault_work ..).trans (endRollback_work ..)
  · exact Work.refl s
  · exact Work.refl s
  · exact Work.refl s

theorem endEarly_work (why : RbPending) (s : State) : Work s (endEarly why s) := by
  unfold endEarly; split
  · exact Work.refl s
  · exact (withdrawClaim_work s).trans (endRollback_work ..)
  · refine Work.trans ?_ (releaseChecking_work _)
    constructor <;> simp
  · constructor <;> simp
  · split
    · exact Work.refl s
    · constructor <;> simp

/-! ### The issue arbiter and the drain -/

theorem offerNext_work (s : State) : Work s (offerNext s) := by
  unfold offerNext; split
  · exact drain_work ..
  · exact Work.refl s

theorem issue_work (m : MemReq) (k : Option Nat) (who : Requester) (s : State) : Work s (issue m k who s) := by
  constructor <;> simp

theorem grantPath_work (s : State) : Work s (grantPath s) := by
  unfold grantPath; split
  · exact Work.refl s
  · refine Work.trans ?_ (issue_work ..)
    constructor <;> simp

theorem mapItem_work (k : Nat) (g : DrainItem → DrainItem) (s : State) : Work s (mapItem k g s) := drain_work ..

theorem grantDrain_work (s : State) : Work s (grantDrain s) := by
  unfold grantDrain; split
  · exact (((drain_work ..).trans (issue_work ..)).trans (mapItem_work ..)).trans (offerNext_work _)
  · exact Work.refl s

theorem grants_work : ∀ (n : Nat) (s : State), Work s (grants n s)
  | 0, s => Work.refl s
  | n + 1, s => by
    unfold grants; split
    · exact Work.refl s
    · exact (grantPath_work s).trans (grants_work n _)
    · exact (grantDrain_work s).trans (grants_work n _)

theorem settle_work (s : State) : Work s (settle s) := (offerNext_work s).trans (grants_work ..)

theorem drainQuiesce_work (s : State) : Work s (drainQuiesce s) := by
  unfold drainQuiesce; split
  · split
    · split
      · exact drainOff_work s
      · exact drain_work ..
    · exact drain_work ..
    · exact Work.refl s
    · exact Work.refl s
    · exact Work.refl s
    · exact Work.refl s
  · exact Work.refl s

theorem retire_work : ∀ (l : List DrainItem) (s : State), Work s (retire l s)
  | [], s => Work.refl s
  | it :: rest, s => by
    unfold retire; split
    · refine Work.trans ?_ (retire_work rest _)
      constructor <;> simp
    · exact Work.refl s

theorem retireAll_work (s : State) : Work s (retireAll s) :=
  ((retire_work ..).trans (raiseIf_work ..)).trans (serveSlots_work _)

theorem drainResponded_work (o : Outstanding) (st : MemStatus) (s : State) : Work s (drainResponded o st s) := by
  unfold drainResponded; split
  · split
    · exact drainQuiesce_work s
    · exact ((mapItem_work ..).trans (retireAll_work _)).trans (drainQuiesce_work _)
  · have h := (raise_work .drainFault s).trans
      (offerFault_work .drainFault .memory o.req.tag (some o.req.addr) (raise .drainFault s))
    dsimp only; split
    · exact h.trans (drainQuiesce_work _)
    · exact (h.trans ((mapItem_work ..).trans (drain_work ..))).trans (drainQuiesce_work _)

/-! ### Responses and classification -/

theorem setOutcome_work (t : HostTag) (o : RecOutcome) (s : State) : Work s (setOutcome t o s) := by
  unfold setOutcome; split
  · exact Work.refl s
  · constructor <;> simp

theorem hostResponded_work (m : MemReq) (st : MemStatus) (d : List Byte) (s : State) : Work s (hostResponded m st d s) := by
  unfold hostResponded; split
  · split <;> exact respond_work ..
  · exact (setOutcome_work ..).trans (respond_work ..)

theorem prereadResponded_work (i : Nat) (st : MemStatus) (d : List Byte) (s : State) :
    Work s (prereadResponded i st d s) := by
  unfold prereadResponded; split
  · split
    · exact resolve_work ..
    · exact ((raise_work ..).trans (offerFault_work ..)).trans (resolve_work ..)
  · exact Work.refl s
  · exact Work.refl s
  · exact Work.refl s

theorem ownerResponded_work (o : Outstanding) (st : MemStatus) (d : List Byte) (s : State) :
    Work s (ownerResponded o st d s) := by
  unfold ownerResponded; split
  · exact hostResponded_work ..
  split
  · exact prereadResponded_work ..
  split
  · split
    · exact checkResponded_work ..
    · exact restoreResponded_work ..
  · exact drainResponded_work ..

theorem stray_work (t : MemTag) (s : State) : Work s (stray t s) := (raise_work ..).trans (offerFault_work ..)

theorem classifyHead_work (r : HostReq) (s : State) : Work s (classifyHead r s) := by
  unfold classifyHead; split
  · exact ((popHead_work s).trans (violation_work ..)).trans (respond_work ..)
  split
  · exact (popHead_work s).trans (park_work ..)
  split
  · exact (popHead_work s).trans (enqueue_work ..)
  split
  · exact (popHead_work s).trans (takeEntry_work ..)
  · constructor <;> simp

/-- A response taken by its owner is work of the part, but for the free values its data may use up. -/
theorem routeResponse_work (t : MemTag) (st : MemStatus) (d : List Byte) (s : State) :
    ∃ n, Work { s with freeCount := n } (routeResponse t st d s) := by
  unfold routeResponse; split
  · exact ⟨s.freeCount, Work.refl s⟩
  split
  · exact ⟨s.freeCount, stray_work t s⟩
  · rename_i o _
    have h : ∃ n, responseFree o.req st d s = { s with freeCount := n } := by
      unfold responseFree; split
      · unfold useFree; split
        · exact ⟨s.freeCount, rfl⟩
        · exact ⟨s.freeCount + 1, rfl⟩
      all_goals exact ⟨s.freeCount, rfl⟩
    obtain ⟨n, hn⟩ := h
    refine ⟨n, ?_⟩
    rw [hn]
    exact ((closeTag_work ..).trans (ownerResponded_work ..)).trans (settle_work _)

end Sys2Proof.Machine
end

