-- ==== Sys2Proof/Laws/Hold.lean ====
section
/-! SUPPORT. What a change of hold entries can do: one relation between the states before and after, which the walks, the
releases, the claims and the slot releases meet, and the small facts about finding an entry. -/

namespace Sys2Proof.Machine

/-! ### Finding an entry -/

theorem findEntry_some {s : State} {p : HoldEntry → Bool} {i : Nat} (hi : i < 8) (hp : p (s.entry i) = true)
    (hj : ∀ j < i, p (s.entry j) = false) : s.findEntry p = some i := by
  unfold State.findEntry
  rw [List.find?_range_eq_some]
  simp_all

theorem findEntry_none {s : State} {p : HoldEntry → Bool} (h : ∀ i < 8, p (s.entry i) = false) :
    s.findEntry p = none := by
  unfold State.findEntry
  rw [List.find?_range_eq_none]
  simp_all

/-- An entry that is found has a number of the table and the property, and it is the lowest that has it. -/
theorem findEntry_eq_some {s : State} {p : HoldEntry → Bool} {i : Nat} (h : s.findEntry p = some i) :
    i < 8 ∧ p (s.entry i) = true ∧ ∀ j < i, p (s.entry j) = false := by
  unfold State.findEntry at h
  rw [List.find?_range_eq_some] at h
  simp_all

theorem findEntry_eq_none {s : State} {p : HoldEntry → Bool} (h : s.findEntry p = none) {i : Nat} (hi : i < 8) :
    p (s.entry i) = false := by
  unfold State.findEntry at h
  rw [List.find?_range_eq_none] at h
  simpa using h i hi

/-- An entry that owns a line has a number of the table. -/
theorem entry_lt {s : State} {i : Nat} {a : Addr} {o : HoldOwner} {l : List Parked} (h : s.entry i = .owned a o l) :
    i < 8 := by
  by_contra hi
  rw [State.entry, Vector.getElem?_eq_none (by omega)] at h
  simp at h

theorem entry_setEntry_same (s : State) {i : Nat} (e : HoldEntry) (hi : i < 8) : (s.setEntry i e).entry i = e := by
  simp [State.entry, State.setEntry, hi]

theorem entry_setEntry_other (s : State) {i j : Nat} (e : HoldEntry) (h : i ≠ j) :
    (s.setEntry i e).entry j = s.entry j := by
  simp [State.entry, State.setEntry, h]

/-! ### What a change of hold entries can do -/

/-- `t` comes from `s` by hold-table work: only the hold table, the ingress queue, the path issue queue and the rollback
engine's state differ, and the path issue queue has only grown, by items that carry no drain tag. -/
structure HoldWork (s t : State) : Prop where
  same : t = { s with
    hold := t.hold, ingress := t.ingress, mem := { s.mem with queue := t.mem.queue }
    rollback := { s.rollback with state := t.rollback.state } }
  queued : ∃ l, t.mem.queue = s.mem.queue ++ l ∧ ∀ m ∈ l, isDrainTag m.tag = false

namespace HoldWork

theorem refl (s : State) : HoldWork s s := ⟨rfl, [], by simp⟩

theorem trans {s t u : State} (h : HoldWork s t) (k : HoldWork t u) : HoldWork s u := by
  refine ⟨?_, ?_⟩
  · have a := k.same
    have b := h.same
    rw [b] at a
    exact a
  · obtain ⟨l, hl, hd⟩ := h.queued
    obtain ⟨m, hm, he⟩ := k.queued
    refine ⟨l ++ m, by rw [hm, hl, List.append_assoc], fun x hx => ?_⟩
    rcases List.mem_append.1 hx with h1 | h1
    · exact hd x h1
    · exact he x h1

variable {s t : State} (h : HoldWork s t)
include h

theorem host : t.host = s.host := by rw [h.same]
theorem ring : t.ring = s.ring := by rw [h.same]
theorem session : t.session = s.session := by rw [h.same]
theorem seqr : t.seqr = s.seqr := by rw [h.same]
theorem drain : t.drain = s.drain := by rw [h.same]
theorem events : t.events = s.events := by rw [h.same]
theorem time : t.time = s.time := by rw [h.same]
theorem port : t.port = s.port := by rw [h.same]
theorem windows : t.windows = s.windows := by rw [h.same]
theorem engaged : t.engaged = s.engaged := by rw [h.same]
theorem pending : t.pending = s.pending := by rw [h.same]
theorem resetHeld : t.resetHeld = s.resetHeld := by rw [h.same]
theorem freeCount : t.freeCount = s.freeCount := by rw [h.same]
theorem outstanding : t.mem.outstanding = s.mem.outstanding := by rw [h.same]
theorem credit : t.mem.credit = s.mem.credit := by rw [h.same]
theorem sent : t.mem.sent = s.mem.sent := by rw [h.same]
theorem lastGrant : t.mem.lastGrant = s.mem.lastGrant := by rw [h.same]
theorem rollback : t.rollback = { s.rollback with state := t.rollback.state } := by rw [h.same]
theorem drainTags : t.drainTags = s.drainTags := by unfold State.drainTags; rw [h.outstanding]

end HoldWork

theorem item_not_drain (r : HostReq) : isDrainTag r.item.tag = false := by
  have h := r.tag.isLt
  simp only [isDrainTag, HostReq.item, BitVec.toNat_setWidth, Bool.and_eq_false_iff, decide_eq_false_iff_not]
  left
  rw [Nat.mod_eq_of_lt] <;> omega

theorem preRead_not_drain (i : Nat) (a : Addr) (hi : i < 8) : isDrainTag (preRead i a).tag = false := by
  simp only [isDrainTag, preRead, BitVec.toNat_ofNat, Bool.and_eq_false_iff, decide_eq_false_iff_not]
  left
  rw [Nat.mod_eq_of_lt] <;> omega

theorem checkRead_not_drain (a : Addr) : isDrainTag (checkRead a).tag = false := by
  have h : (checkRead a).tag = 72 := rfl
  rw [h]
  decide

theorem restoreOf_not_drain {r : Rec} {m : MemReq} (h : restoreOf r = some m) : isDrainTag m.tag = false := by
  unfold restoreOf at h
  split at h <;> simp only [Option.map_eq_some_iff, reduceCtorEq] at h
  obtain ⟨old, -, rfl⟩ := h
  rfl

theorem enqueue_holdWork (m : MemReq) (s : State) (h : isDrainTag m.tag = false) : HoldWork s (enqueue m s) :=
  ⟨rfl, [m], rfl, by simpa using h⟩

theorem setEntry_holdWork (i : Nat) (e : HoldEntry) (s : State) : HoldWork s (s.setEntry i e) := ⟨rfl, [], by simp⟩

theorem popHead_holdWork (s : State) : HoldWork s (popHead s) := ⟨rfl, [], by simp⟩

theorem setArbiter_holdWork (l : List Claimant) (s : State) : HoldWork s (setArbiter l s) := ⟨rfl, [], by simp⟩

theorem withdrawClaim_holdWork (s : State) : HoldWork s (withdrawClaim s) := ⟨rfl, [], by simp⟩

theorem rollbackState_holdWork (st : RbState) (s : State) :
    HoldWork s { s with rollback := { s.rollback with state := st } } := ⟨rfl, [], by simp⟩

theorem park_holdWork (i : Nat) (x : Parked) (s : State) : HoldWork s (park i x s) := by
  unfold park; split
  · exact HoldWork.refl s
  · exact setEntry_holdWork ..

theorem own_holdWork (i : Nat) (w : HeldWrite) (l : List Parked) (s : State) (hi : i < 8) : HoldWork s (own i w l s) :=
  (setEntry_holdWork ..).trans (enqueue_holdWork _ _ (preRead_not_drain i _ hi))

theorem takeEntry_holdWork (i : Nat) (w : HeldWrite) (s : State) (hi : i < 8) : HoldWork s (takeEntry i w s) := by
  unfold takeEntry; split
  · exact (own_holdWork i w _ s hi).trans (setArbiter_holdWork ..)
  · exact own_holdWork i w _ s hi

theorem queueRestore_holdWork (s : State) : HoldWork s (queueRestore s) := by
  unfold queueRestore
  dsimp only
  split
  · rename_i m hm
    obtain ⟨r, -, hr⟩ := Option.bind_eq_some_iff.1 hm
    exact (rollbackState_holdWork ..).trans (enqueue_holdWork _ _ (restoreOf_not_drain hr))
  · exact rollbackState_holdWork ..

theorem holdForCheck_holdWork (i : Nat) (a : Addr) (l : List Parked) (s : State) : HoldWork s (holdForCheck i a l s) :=
  ((rollbackState_holdWork ..).trans (setEntry_holdWork ..)).trans (enqueue_holdWork _ _ (checkRead_not_drain a))

theorem offerFree_holdWork (i : Nat) (hi : i < 8) : ∀ (l : List Claimant) (s : State), HoldWork s (offerFree i l s)
  | [], s => setEntry_holdWork ..
  | .head :: rest, s => by
    unfold offerFree; split
    · exact ((setArbiter_holdWork rest s).trans (popHead_holdWork _)).trans (takeEntry_holdWork i _ _ hi)
    · exact (setArbiter_holdWork rest s).trans (setEntry_holdWork ..)
  | .rollback c :: rest, s => by
    unfold offerFree
    split
    · split
      · dsimp only
        have h := (setArbiter_holdWork (rest.filter fun x => !x.isHead) s).trans (popHead_holdWork _)
        split
        · exact (h.trans (queueRestore_holdWork _)).trans (own_holdWork i _ _ _ hi)
        · exact h.trans (holdForCheck_holdWork ..)
        · exact h.trans (holdForCheck_holdWork ..)
      · have h := setArbiter_holdWork rest s
        split
        · exact (h.trans (queueRestore_holdWork _)).trans (offerFree_holdWork i hi rest _)
        · exact h.trans (holdForCheck_holdWork ..)
        · exact h.trans (holdForCheck_holdWork ..)
    · have h := setArbiter_holdWork rest s
      split
      · exact (h.trans (queueRestore_holdWork _)).trans (offerFree_holdWork i hi rest _)
      · exact h.trans (holdForCheck_holdWork ..)
      · exact h.trans (holdForCheck_holdWork ..)

theorem walk_holdWork (i : Nat) (hi : i < 8) : ∀ (l : List Parked) (s : State), HoldWork s (walk i l s)
  | [], s => offerFree_holdWork i hi _ s
  | .host r cands :: rest, s => by
    unfold walk; split
    · exact (enqueue_holdWork _ _ (item_not_drain r)).trans (walk_holdWork i hi rest _)
    · exact own_holdWork i _ _ _ hi
  | .claim c :: rest, s => by
    unfold walk; split
    · exact (queueRestore_holdWork s).trans (walk_holdWork i hi rest _)
    · exact holdForCheck_holdWork ..
    · exact holdForCheck_holdWork ..

/-- A release changes the hold table, the ingress queue, the path issue queue and the rollback engine's state only. -/
theorem release_holdWork (i : Nat) (s : State) : HoldWork s (release i s) := by
  unfold release; split
  · exact HoldWork.refl s
  · rename_i h
    exact walk_holdWork i (entry_lt h) _ s

theorem releaseChecking_holdWork (s : State) : HoldWork s (releaseChecking s) := by
  unfold releaseChecking; split
  · exact release_holdWork ..
  · exact HoldWork.refl s

theorem claimLine_holdWork (a : Addr) (s : State) : HoldWork s (claimLine a s) := by
  unfold claimLine; dsimp only; split
  · exact (rollbackState_holdWork ..).trans (park_holdWork ..)
  split
  · split
    · exact queueRestore_holdWork s
    · exact holdForCheck_holdWork ..
    · exact holdForCheck_holdWork ..
  · exact (rollbackState_holdWork ..).trans (setArbiter_holdWork ..)

theorem finishAhead_holdWork (i : Nat) (w : HeldWrite) (s : State) : HoldWork s (finishAhead i w s) :=
  (enqueue_holdWork _ _ (item_not_drain w.req)).trans (release_holdWork ..)

/-! ### Releases of slot waits and the session stop -/

/-- `t` comes from `s` by releasing slot waits: hold-table work, with the ring-slot arbiter's list empty at the end and the
gap counter as counted. -/
theorem releaseSlots_does (b : Bool) : ∀ (l : List Nat) (s : State),
    HoldWork { s with ring := { s.ring with
      slotList := [], gap := if b then l.foldl (fun g _ => saturate (g + 1)) s.ring.gap else s.ring.gap } }
      (releaseSlots b l s)
  | [], s => by
    have h : releaseSlots b [] s = { s with ring := { s.ring with slotList := [] } } := by simp [releaseSlots]
    rw [h]
    cases b <;> exact HoldWork.refl _
  | i :: rest, s => by
    have ih := fun t => releaseSlots_does b rest t
    -- work on the hold table before the rest is handled leaves what the rest says of the ring
    have step : ∀ t u : State, HoldWork t u → HoldWork { t with ring := { t.ring with
        slotList := [], gap := if b then rest.foldl (fun g _ => saturate (g + 1)) t.ring.gap else t.ring.gap } }
        (releaseSlots b rest u) := by
      intro t u htu
      refine HoldWork.trans ⟨?_, ?_⟩ (ih u)
      · have a := htu.same
        rw [htu.ring]
        conv_lhs => rw [a]
      · simpa using htu.queued
    unfold releaseSlots
    dsimp only
    generalize hs : (if b = true then { s with ring := { s.ring with gap := saturate (s.ring.gap + 1) } } else s) = s1
    have base : { s with ring := { s.ring with
          slotList := [], gap := if b then (i :: rest).foldl (fun g _ => saturate (g + 1)) s.ring.gap else s.ring.gap } } =
        { s1 with ring := { s1.ring with
          slotList := [], gap := if b then rest.foldl (fun g _ => saturate (g + 1)) s1.ring.gap else s1.ring.gap } } := by
      subst hs
      cases b <;> simp
    rw [base]
    rcases s1.entry i with _ | ⟨line, w | ⟨w, old, d⟩ | _, parked⟩
    · exact ih s1
    · exact ih s1
    · exact step _ _ ((enqueue_holdWork _ s1 (item_not_drain w.req)).trans (release_holdWork i _))
    · exact ih s1

/-! ### The hold table and the event unit -/

theorem takeEntry_events (i : Nat) (w : HeldWrite) (e : Events) (s : State) :
    takeEntry i w { s with events := e } = { takeEntry i w s with events := e } := by
  simp only [takeEntry]
  split <;> rfl

theorem queueRestore_events (e : Events) (s : State) :
    queueRestore { s with events := e } = { queueRestore s with events := e } := by
  simp only [queueRestore]
  split <;> rfl

theorem offerFree_events (i : Nat) (e : Events) : ∀ (l : List Claimant) (s : State),
    offerFree i l { s with events := e } = { offerFree i l s with events := e }
  | [], _ => rfl
  | .head :: rest, s => by
    have h : State.waitingHead { s with events := e } = s.waitingHead := rfl
    simp only [offerFree, h]
    split
    · exact takeEntry_events i _ e (popHead (setArbiter rest s))
    · rfl
  | .rollback c :: rest, s => by
    have h : State.waitingHead { s with events := e } = s.waitingHead := rfl
    have force : offerFree i rest (queueRestore (setArbiter rest { s with events := e })) =
        { offerFree i rest (queueRestore (setArbiter rest s)) with events := e } := by
      rw [show setArbiter rest { s with events := e } = { setArbiter rest s with events := e } from rfl,
        queueRestore_events, offerFree_events i e rest]
    simp only [offerFree, h]
    cases s.waitingHead with
    | none =>
      cases c.mode
      · exact force
      · rfl
      · rfl
    | some w =>
      dsimp only
      split
      · cases c.mode
        · dsimp only
          rw [show popHead (setArbiter (rest.filter fun x => !x.isHead) { s with events := e }) =
            { popHead (setArbiter (rest.filter fun x => !x.isHead) s) with events := e } from rfl, queueRestore_events]
          rfl
        · rfl
        · rfl
      · cases c.mode
        · exact force
        · rfl
        · rfl

theorem walk_events (i : Nat) (e : Events) : ∀ (l : List Parked) (s : State),
    walk i l { s with events := e } = { walk i l s with events := e }
  | [], s => offerFree_events i e s.hold.arbiter s
  | .host r cands :: rest, s => by
    simp only [walk]
    split
    · exact walk_events i e rest (enqueue r.item s)
    · rfl
  | .claim c :: rest, s => by
    simp only [walk]
    cases c.mode
    · dsimp only
      rw [queueRestore_events, walk_events i e rest]
    · rfl
    · rfl

theorem release_events (i : Nat) (e : Events) (s : State) :
    release i { s with events := e } = { release i s with events := e } := by
  simp only [release, show State.entry { s with events := e } i = s.entry i from rfl]
  split
  · rfl
  · exact walk_events ..

/-- The slot waits end in the same way whatever the event unit holds (R56). -/
theorem releaseSlots_events (count : Bool) (e : Events) : ∀ (l : List Nat) (s : State),
    releaseSlots count l { s with events := e } = { releaseSlots count l s with events := e }
  | [], _ => rfl
  | i :: rest, s => by
    have gap : (if count then ({ s with events := e, ring := { s.ring with gap := saturate (s.ring.gap + 1) } } : State)
        else { s with events := e }) =
        { (if count then { s with ring := { s.ring with gap := saturate (s.ring.gap + 1) } } else s) with events := e } := by
      cases count <;> rfl
    simp only [releaseSlots]
    rw [gap]
    generalize (if count then ({ s with ring := { s.ring with gap := saturate (s.ring.gap + 1) } } : State) else s) = x
    simp only [show State.entry { x with events := e } i = x.entry i from rfl]
    split
    · rw [show ∀ m, enqueue m { x with events := e } = { enqueue m x with events := e } from fun _ => rfl, release_events,
        releaseSlots_events count e rest]
    all_goals exact releaseSlots_events count e rest x

end Sys2Proof.Machine
end

