-- ==== Sys2Proof/Laws/Stops.lean ====
section
/-! SUPPORT. What a session stop does to each block, and that the stops of the sequencer and the drain go past hold-table
work. -/

namespace Sys2Proof.Machine

namespace HoldWork

variable {s t : State} (h : HoldWork s t)
include h

/-- Any change of the ring, the session, the sequencer, the drain or the events goes past hold-table work. -/
theorem update (r : Ring) (k : Session) (q : Sequencer) (d : Drain) (e : Events) :
    HoldWork { s with ring := r, session := k, seqr := q, drain := d, events := e }
      { t with ring := r, session := k, seqr := q, drain := d, events := e } := by
  refine ⟨?_, h.queued⟩
  have a := h.same
  conv_lhs => rw [a]

theorem seqIdle : HoldWork (seqIdle s) (Machine.seqIdle t) := by
  have := h.update s.ring s.session (Machine.seqIdle s).seqr s.drain s.events
  have e : Machine.seqIdle t = { t with
      ring := s.ring, session := s.session, seqr := (Machine.seqIdle s).seqr, drain := s.drain, events := s.events } := by
    rw [← h.ring, ← h.session, ← h.drain, ← h.events]
    simp [Machine.seqIdle, h.seqr]
  rw [e]
  exact this

theorem drainStop : HoldWork (drainStop s) (Machine.drainStop t) := by
  have a := h.update s.ring s.session s.seqr (Machine.drainStop s).drain s.events
  have e : Machine.drainStop t = { t with
      ring := s.ring, session := s.session, seqr := s.seqr, drain := (Machine.drainStop s).drain, events := s.events } := by
    rw [← h.ring, ← h.session, ← h.seqr, ← h.events]
    unfold Machine.drainStop
    rw [h.drain, h.drainTags]
    split
    · split <;> rfl
    · rw [← h.drain]
  have b : { s with
      ring := s.ring, session := s.session, seqr := s.seqr, drain := (Machine.drainStop s).drain, events := s.events } =
      Machine.drainStop s := by
    unfold Machine.drainStop
    split
    · split <;> rfl
    · rfl
  rw [e, ← b]
  exact a

end HoldWork

theorem releaseSlots_holdWork (l : List Nat) (s : State) :
    HoldWork { s with ring := { s.ring with slotList := [] } } (releaseSlots false l s) := by
  simpa using releaseSlots_does false l s

/-- A session stop (R47, R56, R77, R78, R131): the session is STOPPED with the reason, no slot wait is left, the sequencer is
IDLE, a RUNNING drain stops, and for the rest there is hold-table work. -/
theorem stopSession_does (r : StopReason) (s : State) :
    HoldWork
      (drainStop { s with
        session := { s.session with state := .stopped, stopReason := some r }
        ring := { s.ring with slotList := [] }
        seqr := { s.seqr with state := .idle, stage := 0, count := 0, elapsed := 0 } })
      (stopSession r s) :=
  (releaseSlots_holdWork s.ring.slotList
    { s with session := { s.session with state := .stopped, stopReason := some r } }).seqIdle.drainStop

@[simp] theorem drainStop_ring (s : State) : (drainStop s).ring = s.ring := by
  unfold drainStop; split <;> [split <;> rfl; rfl]

@[simp] theorem drainStop_session (s : State) : (drainStop s).session = s.session := by
  unfold drainStop; split <;> [split <;> rfl; rfl]

@[simp] theorem drainStop_seqr (s : State) : (drainStop s).seqr = s.seqr := by
  unfold drainStop; split <;> [split <;> rfl; rfl]

@[simp] theorem drainStop_events (s : State) : (drainStop s).events = s.events := by
  unfold drainStop; split <;> [split <;> rfl; rfl]

@[simp] theorem drainStop_host (s : State) : (drainStop s).host = s.host := by
  unfold drainStop; split <;> [split <;> rfl; rfl]

@[simp] theorem drainStop_mem (s : State) : (drainStop s).mem = s.mem := by
  unfold drainStop; split <;> [split <;> rfl; rfl]

@[simp] theorem drainStop_hold (s : State) : (drainStop s).hold = s.hold := by
  unfold drainStop; split <;> [split <;> rfl; rfl]

@[simp] theorem drainStop_rollback (s : State) : (drainStop s).rollback = s.rollback := by
  unfold drainStop; split <;> [split <;> rfl; rfl]

theorem stopSession_session (r : StopReason) (s : State) :
    (stopSession r s).session = { s.session with state := .stopped, stopReason := some r } := by
  rw [(stopSession_does r s).session]; simp

theorem stopSession_ring (r : StopReason) (s : State) : (stopSession r s).ring = { s.ring with slotList := [] } := by
  rw [(stopSession_does r s).ring]; simp

theorem stopSession_seqr (r : StopReason) (s : State) :
    (stopSession r s).seqr = { s.seqr with state := .idle, stage := 0, count := 0, elapsed := 0 } := by
  rw [(stopSession_does r s).seqr]; simp

theorem stopSession_events (r : StopReason) (s : State) : (stopSession r s).events = s.events := by
  rw [(stopSession_does r s).events]; simp

theorem stopSession_host (r : StopReason) (s : State) : (stopSession r s).host = s.host := by
  rw [(stopSession_does r s).host]; simp

theorem stopSession_outstanding (r : StopReason) (s : State) :
    (stopSession r s).mem.outstanding = s.mem.outstanding := by
  rw [(stopSession_does r s).outstanding]; simp

theorem stopSession_drain (r : StopReason) (s : State) : (stopSession r s).drain = (drainStop s).drain := by
  rw [(stopSession_does r s).drain]
  unfold drainStop
  dsimp only
  split
  · have e : State.drainTags { s with
        session := { s.session with state := .stopped, stopReason := some r }
        ring := { s.ring with slotList := [] }
        seqr := { s.seqr with state := .idle, stage := 0, count := 0, elapsed := 0 } } = s.drainTags := rfl
    rw [e]
    split <;> rfl
  · rfl

/-- A session stop, whole: what the release of the slot waits leaves, with the sequencer IDLE and the drain stopped (R56, R77,
R131). -/
theorem stopSession_eq (r : StopReason) (s : State) :
    stopSession r s = { releaseSlots false s.ring.slotList
        { s with session := { s.session with state := .stopped, stopReason := some r } } with
      seqr := { s.seqr with state := .idle, stage := 0, count := 0, elapsed := 0 }, drain := (drainStop s).drain } := by
  have same : ∀ x : State, drainStop x = { x with drain := (drainStop x).drain } := fun x => by
    unfold drainStop; split <;> [split <;> rfl; rfl]
  have h := (releaseSlots_holdWork s.ring.slotList
    { s with session := { s.session with state := .stopped, stopReason := some r } }).seqr
  rw [← stopSession_drain r s, stopSession, same, seqIdle]
  simp [h]

/-! ### Records -/

/-- One append without its stop: the record, its pair and its number, and RING_THRESHOLD where the count reaches it (R43,
R46, R48, R57). -/
theorem pushRec_eq (discard : Bool) (body : RecBody) (time : Time) (s : State) :
    pushRec discard body time s = { s with
      ring := { s.ring with
        recs := (if discard then s.ring.recs.tail else s.ring.recs) ++ [⟨s.ring.nextSeq, time, body⟩]
        outcomeMap := s.ring.outcomeMap ++ body.pairs s.ring.nextSeq
        nextSeq := s.ring.nextSeq + 1 }
      events := { s.events with pending :=
        s.events.pending ||| (if discard = false ∧ s.ring.recs.length + 1 = s.ring.threshold
          then Event.ringThreshold.set else 0) } } := by
  unfold pushRec raiseIf raise
  cases discard <;> by_cases h : s.ring.recs.length + 1 = s.ring.threshold <;> simp [h]

@[simp] theorem pushRec_ring (discard : Bool) (body : RecBody) (time : Time) (s : State) :
    (pushRec discard body time s).ring = { s.ring with
      recs := (if discard then s.ring.recs.tail else s.ring.recs) ++ [⟨s.ring.nextSeq, time, body⟩]
      outcomeMap := s.ring.outcomeMap ++ body.pairs s.ring.nextSeq
      nextSeq := s.ring.nextSeq + 1 } := by rw [pushRec_eq]

@[simp] theorem pushRec_session (discard : Bool) (body : RecBody) (time : Time) (s : State) :
    (pushRec discard body time s).session = s.session := by rw [pushRec_eq]

@[simp] theorem pushRec_seqr (discard : Bool) (body : RecBody) (time : Time) (s : State) :
    (pushRec discard body time s).seqr = s.seqr := by rw [pushRec_eq]

@[simp] theorem pushRec_hold (discard : Bool) (body : RecBody) (time : Time) (s : State) :
    (pushRec discard body time s).hold = s.hold := by rw [pushRec_eq]

@[simp] theorem pushRec_ingress (discard : Bool) (body : RecBody) (time : Time) (s : State) :
    (pushRec discard body time s).ingress = s.ingress := by rw [pushRec_eq]

@[simp] theorem pushRec_mem (discard : Bool) (body : RecBody) (time : Time) (s : State) :
    (pushRec discard body time s).mem = s.mem := by rw [pushRec_eq]

@[simp] theorem pushRec_host (discard : Bool) (body : RecBody) (time : Time) (s : State) :
    (pushRec discard body time s).host = s.host := by rw [pushRec_eq]

@[simp] theorem pushRec_drain (discard : Bool) (body : RecBody) (time : Time) (s : State) :
    (pushRec discard body time s).drain = s.drain := by rw [pushRec_eq]

@[simp] theorem pushRec_rollback (discard : Bool) (body : RecBody) (time : Time) (s : State) :
    (pushRec discard body time s).rollback = s.rollback := by rw [pushRec_eq]

/-- With numbers left an append is one push; the append of the last number is a push and a stop (R47). -/
theorem appendRec_of_ne {s : State} (h : s.ring.nextSeq ≠ lastSeq) (discard : Bool) (body : RecBody) (time : Time) :
    appendRec discard body time s = pushRec discard body time s := by simp [appendRec, h]

theorem appendRec_of_eq {s : State} (h : s.ring.nextSeq = lastSeq) (discard : Bool) (body : RecBody) (time : Time) :
    appendRec discard body time s = stopSession .exhausted (raise .seqExhausted (pushRec discard body time s)) := by
  simp [appendRec, h, exhaust]

/-- With numbers left a GAP is one record, the gap counter at 0 after it (R45, R51); the GAP that takes the last number stops
the session (R47). -/
theorem appendGap_of_ne {s : State} (h : s.ring.nextSeq ≠ lastSeq) (n : Nat) :
    appendGap n s = { s with
      ring := { s.ring with
        recs := s.ring.recs ++ [⟨s.ring.nextSeq, s.time.counter, .gap n⟩], nextSeq := s.ring.nextSeq + 1, gap := 0 }
      events := { s.events with pending := s.events.pending |||
        if s.ring.recs.length + 1 = s.ring.threshold then Event.ringThreshold.set else 0 } } := by
  unfold appendGap
  rw [appendRec_of_ne (s := { s with ring := { s.ring with gap := 0 } }) h, pushRec_eq]
  simp [RecBody.pairs]

theorem appendGap_last_session {s : State} (h : s.ring.nextSeq = lastSeq) (n : Nat) :
    (appendGap n s).session.state = .stopped := by
  unfold appendGap
  rw [appendRec_of_eq (s := { s with ring := { s.ring with gap := 0 } }) h, stopSession_session]

end Sys2Proof.Machine
end

