-- ==== Sys2Proof/Laws/Clears.lean ====
section
/-! SUPPORT. What a clear of the session does to each block, and what the early end of a rollback leaves. -/

namespace Sys2Proof.Machine

/-- What a clear leaves of the ring, the session and the sequencer (R63, R79, R96). -/
def sessionCleared (s : State) : State :=
  { s with
    ring := { s.ring with recs := [], outcomeMap := [], gap := 0, nextSeq := 0, slotList := [] }
    session := Session.reset
    seqr := { s.seqr with state := .idle, stage := 0, count := 0, elapsed := 0 } }

/-- A clear's work is hold-table work around the cleared session, then the rollback's early end, then the drain's clear. -/
theorem clearSessionWork_does (dc : State → State) (s : State) :
    ∃ t, clearSessionWork dc s = dc (endEarly .cleared t) ∧ HoldWork (sessionCleared s) t := by
  refine ⟨_, rfl, ?_⟩
  have d := releaseSlots_does false s.ring.slotList s
  refine ⟨?_, d.queued⟩
  have a := d.same
  simp only [seqIdle]
  conv_lhs => rw [a]
  rfl

/-- With no slot wait a clear's work is the cleared session, the rollback's early end, and the drain's clear. -/
theorem clearSessionWork_slotless (dc : State → State) {s : State} (h : s.ring.slotList = []) :
    clearSessionWork dc s = dc (endEarly .cleared (sessionCleared s)) := by
  unfold clearSessionWork
  rw [h]
  simp only [releaseSlots, seqIdle, Ring.cleared, sessionCleared]

/-- The early end of a rollback is hold-table work, but for the engine's own fields and ROLLBACK_DONE (R110, R113). -/
theorem endEarly_does (why : RbPending) (s : State) :
    ∃ t, HoldWork s t ∧
      endEarly why s = { t with rollback := (endEarly why s).rollback, events := (endEarly why s).events } ∧
      (endEarly why s).events.fault = s.events.fault ∧ (endEarly why s).events.enabled = s.events.enabled := by
  unfold endEarly
  split
  · exact ⟨s, HoldWork.refl s, rfl, rfl, rfl⟩
  · exact ⟨withdrawClaim s, withdrawClaim_holdWork s, rfl, rfl, rfl⟩
  · have h := releaseChecking_holdWork
      { s with rollback := { s.rollback with state := .aborting, pendingResult := some why } }
    refine ⟨{ releaseChecking { s with rollback := { s.rollback with state := .aborting, pendingResult := some why } } with
      rollback := s.rollback }, ⟨?_, h.queued⟩, ?_, by rw [h.events], by rw [h.events]⟩
    · have a := h.same
      conv_lhs => rw [a]
    · have e := h.events
      cases hx : releaseChecking { s with rollback := { s.rollback with state := .aborting, pendingResult := some why } }
      rfl
  · exact ⟨s, HoldWork.refl s, rfl, rfl, rfl⟩
  · cases why <;> exact ⟨s, HoldWork.refl s, rfl, rfl, rfl⟩

/-- The drain's share of CLEAR SESSION changes the drain only (R132). -/
theorem drainClearSession_same (s : State) : drainClearSession s = { s with drain := (drainClearSession s).drain } := by
  unfold drainClearSession drainClearWorking drainClearing
  repeat' split
  all_goals rfl

/-- The drain's share of CLEAR ALL changes the drain only (R133). -/
theorem drainClearAll_same (s : State) : drainClearAll s = { s with drain := (drainClearAll s).drain } := by
  unfold drainClearAll drainClearing drainOff
  repeat' split
  all_goals rfl

end Sys2Proof.Machine
end

