-- ==== Sys2Proof/Laws/Ring.lean ====
section
/-! SUPPORT. What records joining the ring can do: one relation between the states before and after, which every append, the
ring-slot arbiter, the fire and the count meet; and the order that consecutive numbers give the ring. -/

namespace Sys2Proof.Machine

/-! ### Numbers -/

/-- A ring whose numbers are consecutive stays so when a record with the next number joins, the oldest leaving for it or not
(R43, R46, R70). -/
theorem numbered_push {r : Ring} (h : r.numbered) (discard : Bool) (time : Time) (body : RecBody) (m : List (HostTag × Nat)) :
    Ring.numbered { r with
      recs := (if discard then r.recs.tail else r.recs) ++ [⟨r.nextSeq, time, body⟩], outcomeMap := m
      nextSeq := r.nextSeq + 1 } := by
  obtain ⟨h1, h2⟩ := h
  cases discard
  · refine ⟨by simp; omega, ?_⟩
    simp only [Bool.false_eq_true, if_false, List.map_append, h2, List.map_cons, List.map_nil, List.length_append,
      List.length_cons, List.length_nil]
    rw [show r.nextSeq + 1 - (r.recs.length + (0 + 1)) = r.nextSeq - r.recs.length by omega, Nat.zero_add,
      ← List.range'_append_1 (s := r.nextSeq - r.recs.length) (m := r.recs.length) (n := 1),
      show r.nextSeq - r.recs.length + r.recs.length = r.nextSeq by omega]
    rfl
  · cases hr : r.recs with
    | nil => exact ⟨by simp, by simp⟩
    | cons a l =>
      rw [hr] at h1 h2
      simp only [List.length_cons] at h1 h2
      rw [List.map_cons, List.range'_succ] at h2
      have ht := (List.cons.inj h2).2
      refine ⟨by simp; omega, ?_⟩
      simp only [if_true, List.tail_cons, List.map_append, ht, List.map_cons, List.map_nil, List.length_append,
        List.length_cons, List.length_nil]
      rw [show r.nextSeq + 1 - (l.length + (0 + 1)) = r.nextSeq - (l.length + 1) + 1 by omega, Nat.zero_add,
        ← List.range'_append_1 (s := r.nextSeq - (l.length + 1) + 1) (m := l.length) (n := 1),
        show r.nextSeq - (l.length + 1) + 1 + l.length = r.nextSeq by omega]
      rfl

/-- A ring whose numbers are consecutive stays so when the oldest records leave (R43, R62, R124). -/
theorem numbered_drop {r : Ring} (h : r.numbered) (n : Nat) : Ring.numbered { r with recs := r.recs.drop n } := by
  obtain ⟨h1, h2⟩ := h
  refine ⟨by simp; omega, ?_⟩
  simp only [List.map_drop, h2, List.drop_range', List.length_drop, Nat.mul_one]
  by_cases hn : n ≤ r.recs.length
  · rw [show r.nextSeq - (r.recs.length - n) = r.nextSeq - r.recs.length + n by omega]
  · rw [show r.recs.length - n = 0 by omega]
    rfl

/-- A ring whose numbers are consecutive stays so when records change in what is not their number (R43). -/
theorem numbered_map {r : Ring} (h : r.numbered) (g : Rec → Rec) (hg : ∀ x, (g x).seq = x.seq) :
    Ring.numbered { r with recs := r.recs.map g } := by
  obtain ⟨h1, h2⟩ := h
  have e : Rec.seq ∘ g = Rec.seq := funext hg
  exact ⟨by simpa using h1, by simpa [e] using h2⟩

/-- Consecutive numbers rise from the oldest record to the newest. -/
theorem numbered_pairwise {r : Ring} (h : r.numbered) : r.recs.Pairwise fun a b => a.seq < b.seq := by
  have : (r.recs.map Rec.seq).Pairwise (· < ·) := by
    rw [h.2]
    exact List.pairwise_lt_range'
  rwa [List.pairwise_map] at this

/-- Among rising numbers, the records after the ones up to a number are the ones with a greater number. -/
theorem dropWhile_seq {l : List Rec} (n : Nat) (h : l.Pairwise fun a b => a.seq < b.seq) :
    l.dropWhile (fun r => decide (r.seq ≤ n)) = l.filter fun r => decide (n < r.seq) := by
  induction l with
  | nil => rfl
  | cons a l ih =>
    obtain ⟨h1, h2⟩ := List.pairwise_cons.1 h
    by_cases ha : a.seq ≤ n
    · rw [List.dropWhile_cons_of_pos (by simpa using ha), List.filter_cons_of_neg (by simp; omega), ih h2]
    · rw [List.dropWhile_cons_of_neg (by simpa using ha)]
      symm
      rw [List.filter_eq_self]
      intro x hx
      rcases List.mem_cons.1 hx with rfl | hx
      · simp; omega
      · have := h1 x hx
        simp; omega

/-- Among rising numbers, the records before the ones above a number are the ones with a number up to it. -/
theorem takeWhile_seq {l : List Rec} (n : Nat) (h : l.Pairwise fun a b => a.seq < b.seq) :
    l.takeWhile (fun r => decide (r.seq ≤ n)) = l.filter fun r => decide (r.seq ≤ n) := by
  induction l with
  | nil => rfl
  | cons a l ih =>
    obtain ⟨h1, h2⟩ := List.pairwise_cons.1 h
    by_cases ha : a.seq ≤ n
    · rw [List.takeWhile_cons_of_pos (by simpa using ha), List.filter_cons_of_pos (by simpa using ha), ih h2]
    · rw [List.takeWhile_cons_of_neg (by simpa using ha), List.filter_cons_of_neg (by simpa using ha)]
      symm
      rw [List.filter_eq_nil_iff]
      intro x hx
      have := h1 x hx
      simp; omega

/-- The gap counter counts up to 4,294,967,295 and stays there (R51). -/
theorem foldl_saturate (l : List Nat) {g : Nat} (h : g ≤ 4294967295) :
    l.foldl (fun g _ => saturate (g + 1)) g = min (g + l.length) 4294967295 := by
  induction l generalizing g with
  | nil => simp; omega
  | cons a l ih =>
    simp only [List.foldl_cons, List.length_cons]
    rw [ih (by unfold saturate; omega)]
    unfold saturate
    omega

/-! ### What records joining the ring can do -/

/-- `t` comes from `s` by records joining the ring: the host link, what is outstanding on the memory link and the fault record
are as before, the path issue queue has only grown, by items that carry no drain tag, and the numbers of the ring go on. -/
structure RecWork (s t : State) : Prop where
  host : t.host = s.host
  outstanding : t.mem.outstanding = s.mem.outstanding
  sent : t.mem.sent = s.mem.sent
  lastGrant : t.mem.lastGrant = s.mem.lastGrant
  fault : t.events.fault = s.events.fault
  queued : ∃ l, t.mem.queue = s.mem.queue ++ l ∧ ∀ m ∈ l, isDrainTag m.tag = false
  nextSeq : s.ring.nextSeq ≤ t.ring.nextSeq
  numbered : s.ring.numbered → t.ring.numbered

namespace RecWork

theorem refl (s : State) : RecWork s s := ⟨rfl, rfl, rfl, rfl, rfl, ⟨[], by simp⟩, Nat.le_refl _, id⟩

theorem trans {s t u : State} (h : RecWork s t) (k : RecWork t u) : RecWork s u where
  host := k.host.trans h.host
  outstanding := k.outstanding.trans h.outstanding
  sent := k.sent.trans h.sent
  lastGrant := k.lastGrant.trans h.lastGrant
  fault := k.fault.trans h.fault
  queued := by
    obtain ⟨l, hl, hd⟩ := h.queued
    obtain ⟨m, hm, he⟩ := k.queued
    refine ⟨l ++ m, by rw [hm, hl, List.append_assoc], fun x hx => ?_⟩
    rcases List.mem_append.1 hx with h1 | h1
    · exact hd x h1
    · exact he x h1
  nextSeq := h.nextSeq.trans k.nextSeq
  numbered := k.numbered ∘ h.numbered

theorem drainTags {s t : State} (h : RecWork s t) : t.drainTags = s.drainTags := by
  unfold State.drainTags
  rw [h.outstanding]

end RecWork

theorem HoldWork.recWork {s t : State} (h : HoldWork s t) : RecWork s t :=
  ⟨h.host, h.outstanding, h.sent, h.lastGrant, by rw [h.events], h.queued, by rw [h.ring], by rw [h.ring]; exact id⟩

/-- A change of the gap counter, the ring-slot arbiter's list, the session, the sequencer, the drain or the pending set. -/
theorem blocks_recWork (g : Nat) (l : List Nat) (k : Session) (q : Sequencer) (d : Drain) (p : Set16) (s : State) :
    RecWork s { s with
      ring := { s.ring with gap := g, slotList := l }, session := k, seqr := q, drain := d
      events := { s.events with pending := p } } :=
  ⟨rfl, rfl, rfl, rfl, rfl, ⟨[], by simp⟩, Nat.le_refl _, id⟩

theorem raise_recWork (e : Event) (s : State) : RecWork s (raise e s) :=
  ⟨rfl, rfl, rfl, rfl, rfl, ⟨[], by simp⟩, Nat.le_refl _, id⟩

theorem pushRec_recWork (discard : Bool) (body : RecBody) (time : Time) (s : State) :
    RecWork s (pushRec discard body time s) := by
  refine ⟨by simp, by simp, by simp, by simp, ?_, ⟨[], by simp⟩, by simp, fun h => ?_⟩
  · rw [pushRec_eq]
  · rw [pushRec_ring]
    exact numbered_push h ..

theorem stopSession_recWork (r : StopReason) (s : State) : RecWork s (stopSession r s) := by
  refine RecWork.trans ?_ (stopSession_does r s).recWork
  unfold drainStop
  split
  · split <;> exact blocks_recWork ..
  · exact blocks_recWork ..

theorem exhaust_recWork (s : State) : RecWork s (exhaust s) := (raise_recWork ..).trans (stopSession_recWork ..)

theorem appendRec_recWork (discard : Bool) (body : RecBody) (time : Time) (s : State) :
    RecWork s (appendRec discard body time s) := by
  unfold appendRec
  split
  · exact (pushRec_recWork ..).trans (exhaust_recWork _)
  · exact pushRec_recWork ..

theorem gap_recWork (g : Nat) (s : State) : RecWork s { s with ring := { s.ring with gap := g } } :=
  blocks_recWork g s.ring.slotList s.session s.seqr s.drain s.events.pending s

theorem appendGap_recWork (n : Nat) (s : State) : RecWork s (appendGap n s) :=
  (gap_recWork 0 s).trans (appendRec_recWork ..)

theorem appendSkip_recWork (body : RecBody) (time : Time) (s : State) : RecWork s (appendSkip body time s) := by
  unfold appendSkip
  split
  · exact (gap_recWork ..).trans (raise_recWork ..)
  split
  · exact appendRec_recWork ..
  split
  · exact appendGap_recWork ..
  dsimp only
  split
  · exact (appendGap_recWork ..).trans (appendRec_recWork ..)
  · exact appendGap_recWork ..

theorem appendHold_recWork (d : Draft) (s : State) : RecWork s (appendHold d s).1 := by
  unfold appendHold
  split
  · exact raise_recWork ..
  split
  · exact appendRec_recWork ..
  dsimp only
  split
  · split
    · exact appendGap_recWork ..
    · exact (appendGap_recWork ..).trans (appendRec_recWork ..)
  · exact appendGap_recWork ..

theorem slotList_recWork (l : List Nat) (s : State) : RecWork s { s with ring := { s.ring with slotList := l } } :=
  blocks_recWork s.ring.gap l s.session s.seqr s.drain s.events.pending s

theorem finishAhead_recWork (i : Nat) (w : HeldWrite) (s : State) : RecWork s (finishAhead i w s) :=
  (finishAhead_holdWork i w s).recWork

theorem serveSlot_recWork (i : Nat) (w : HeldWrite) (d : Draft) (rest : List Nat) (s : State) :
    RecWork s (serveSlot i w d rest s) :=
  ((slotList_recWork rest s).trans (appendRec_recWork ..)).trans (finishAhead_recWork i w _)

theorem serveList_recWork : ∀ (l : List Nat) (s : State), RecWork s (serveList l s)
  | [], s => RecWork.refl s
  | i :: rest, s => by
    unfold serveList
    split
    · split
      · split
        · exact (serveSlot_recWork ..).trans (serveList_recWork rest _)
        · dsimp only
          split
          · exact ((appendGap_recWork ..).trans (serveSlot_recWork ..)).trans (serveList_recWork rest _)
          · exact appendGap_recWork ..
      all_goals exact RecWork.refl s
    · exact RecWork.refl s

theorem serveSlots_recWork (s : State) : RecWork s (serveSlots s) := serveList_recWork ..

theorem appendArmed_recWork (body : RecBody) (time : Time) (s : State) : RecWork s (appendArmed body time s) := by
  unfold appendArmed
  split
  · exact RecWork.refl s
  · exact appendRec_recWork ..

theorem session_recWork (k : Session) (s : State) : RecWork s { s with session := k } :=
  blocks_recWork s.ring.gap s.ring.slotList k s.seqr s.drain s.events.pending s

theorem appendFired_recWork (body : RecBody) (time : Time) (s : State) : RecWork s (appendFired body time s) := by
  have h := (pushRec_recWork false body time s).trans (session_recWork
    { (pushRec false body time s).session with post := (pushRec false body time s).session.post + 1 } _)
  unfold appendFired
  dsimp only
  split
  · exact h.trans (exhaust_recWork _)
  split
  · exact (h.trans (session_recWork _ _)).trans (raise_recWork ..)
  · exact h

theorem appendRefused_recWork (info : WriteInfo) (s : State) : RecWork s (appendRefused info s) := by
  unfold appendRefused
  split
  · exact appendSkip_recWork ..
  · exact appendArmed_recWork ..
  · exact appendFired_recWork ..
  all_goals exact RecWork.refl s

theorem appendWrite_recWork (d : Draft) (s : State) : RecWork s (appendWrite d s).1 := by
  unfold appendWrite
  split
  · split
    · exact appendHold_recWork ..
    · exact appendSkip_recWork ..
  · exact appendArmed_recWork ..
  · exact appendFired_recWork ..
  all_goals exact RecWork.refl s

/-! ### The fire and the count -/

theorem raiseIf_recWork (c : Bool) (e : Event) (s : State) : RecWork s (raiseIf c e s) := by
  cases c
  · exact RecWork.refl s
  · exact raise_recWork e s

theorem seqr_recWork (q : Sequencer) (s : State) : RecWork s { s with seqr := q } :=
  blocks_recWork s.ring.gap s.ring.slotList s.session q s.drain s.events.pending s

/-- What a marker does that takes the last number (R47). -/
theorem markerStop_recWork (b : Prop) [Decidable b] (s : State) :
    RecWork s (if b then (if s.session.state = .fired then exhaust s else raise .seqExhausted s) else s) := by
  split
  · split
    · exact exhaust_recWork s
    · exact raise_recWork ..
  · exact RecWork.refl s

theorem fire_recWork (c : Cause) (s : State) : RecWork s (fire c s) := by
  unfold fire
  have h := pushRec_recWork false (.trigger c) s.time.counter s
  generalize pushRec false (.trigger c) s.time.counter s = s0 at h ⊢
  have base : RecWork s (raiseIf (s0.session.q == 0) .captured (raise .fired { s0 with
      session := { s0.session with
        state := if s0.session.q = 0 then .captured else .fired, post := 0, guardsInForce := true }
      seqr := { s0.seqr with state := .done, elapsed := 0 } })) :=
    ((h.trans (blocks_recWork s0.ring.gap s0.ring.slotList _ _ s0.drain s0.events.pending s0)).trans (raise_recWork ..)).trans
      (raiseIf_recWork ..)
  exact base.trans (markerStop_recWork _ _)

theorem takeCount_recWork (s : State) : RecWork s (takeCount s) := by
  unfold takeCount
  split
  · exact seqr_recWork ..
  split
  · exact seqr_recWork ..
  · exact (seqr_recWork ..).trans (fire_recWork ..)

theorem countStep_recWork (b : Bool) (s : State) : RecWork s (countStep b s) := by
  unfold countStep
  split
  · exact takeCount_recWork s
  · exact RecWork.refl s

/-! ### Resolution -/

theorem waitForSlot_recWork (i : Nat) (a : Addr) (w : HeldWrite) (old : Option (List Byte)) (d : Draft) (l : List Parked)
    (s : State) : RecWork s (waitForSlot i a w old d l s) :=
  (setEntry_holdWork i (.owned a (.slotWait w old d) l) s).recWork.trans (slotList_recWork ..)

/-- A write that goes ahead sends nothing to the host in its resolution (R29, R33). -/
theorem resolveAhead_recWork (i : Nat) (a : Addr) (w : HeldWrite) (old : Option (List Byte)) (l : List Parked)
    (hits : Set16) (s : State) : RecWork s (resolveAhead i a w old l hits s) := by
  unfold resolveAhead
  dsimp only
  split
  · have h := appendWrite_recWork { time := s.time.counter, info := recordInfo w (s.recordSet hits) old } s
    split
    · rename_i s1 hs
      rw [hs] at h
      exact h.trans (waitForSlot_recWork ..)
    · rename_i s1 hs
      rw [hs] at h
      exact (h.trans (countStep_recWork ..)).trans (finishAhead_recWork ..)
  · exact (countStep_recWork ..).trans (finishAhead_recWork ..)

/-- A refused write's resolution is record work but for its answer: the credit returns and the tag is no longer in the part
(R29, R136). -/
theorem resolveRefused_does (i : Nat) (w : HeldWrite) (old : Option (List Byte)) (hits : Set16) (s : State) :
    RecWork { s with host := { s.host with
        credit := s.host.credit + 1, inPart := s.host.inPart.erase w.req.tag
        sent := s.host.sent ++ [.response w.req.tag .refused []] } }
      (resolveRefused i w old hits s) := by
  unfold resolveRefused
  dsimp only
  refine RecWork.trans ?_ (release_holdWork i _).recWork
  have h : ∀ t, RecWork (raise .refusal s) t → RecWork { s with host := { s.host with
        credit := s.host.credit + 1, inPart := s.host.inPart.erase w.req.tag
        sent := s.host.sent ++ [.response w.req.tag .refused []] } } (respond w.req.tag .refused [] t) := by
    intro t k
    have e := k.host
    exact ⟨by simp [e], k.outstanding, k.sent, k.lastGrant, k.fault, k.queued, k.nextSeq, k.numbered⟩
  refine h _ (RecWork.trans ?_ (countStep_recWork ..))
  split
  · exact appendRefused_recWork ..
  · exact RecWork.refl _

end Sys2Proof.Machine
end

