-- ==== Sys2Proof/Laws/Drain.lean ====
section
/-! SUPPORT. The lines of the spill area: what placement, responses, retirement and the stops do to the indices, and what
retirement leaves of the ring. -/

namespace Sys2Proof.Machine

/-- The indices of a configured spill area agree with the lines in use and in flight (R117, R121, R124). -/
structure Drain.Balanced (d : Drain) : Prop where
  p_lt : d.p < d.size
  q_lt : d.q < d.size
  used : (d.c + d.u) % d.size = d.p
  flight : (d.p + d.flightLines) % d.size = d.q
  room : d.u + d.flightLines ≤ d.size

/-- A record placed takes lines that are free, with a PAD before it where it would pass the end (R121). -/
theorem place_balanced {d : Drain} (h : d.Balanced) (r : Rec) : (d.place r).Balanced := by
  obtain ⟨hp, hq, hu, hf, hr⟩ := h
  have hs : 0 < d.size := by omega
  unfold Drain.place
  split
  · split
    · rename_i h1 h2
      refine ⟨hp, Nat.mod_lt _ hs, hu, ?_, ?_⟩
      · simp only [Drain.flightLines, List.map_append, List.map_cons, List.map_nil, List.sum_append, List.sum_cons,
          List.sum_nil, recordItem, Nat.add_zero]
        rw [← Nat.add_assoc, Nat.add_mod, show (d.p + (d.inFlight.map DrainItem.lines).sum) % d.size = d.q from hf,
          Nat.add_mod_mod]
      · simp only [Drain.freeLines, Drain.flightLines] at h2 hr ⊢
        simp only [List.map_append, List.map_cons, List.map_nil, List.sum_append, List.sum_cons, List.sum_nil, recordItem]
        omega
    · exact ⟨hp, hq, hu, hf, hr⟩
  · split
    · rename_i h1 h2
      simp only [Drain.freeLines, Drain.flightLines] at h2 hr
      have hl : r.lineCount < d.size := by omega
      refine ⟨hp, hl, hu, ?_, ?_⟩
      · simp only [Drain.flightLines, List.map_append, List.map_cons, List.map_nil, List.sum_append, List.sum_cons,
          List.sum_nil, recordItem, padItem, Nat.add_zero]
        rw [← Nat.add_assoc, Nat.add_mod, show (d.p + (d.inFlight.map DrainItem.lines).sum) % d.size = d.q from hf,
          Nat.add_mod_mod, show d.q + (d.size - d.q + r.lineCount) = r.lineCount + d.size by omega, Nat.add_mod_right,
          Nat.mod_eq_of_lt hl]
      · simp only [Drain.flightLines, List.map_append, List.map_cons, List.map_nil, List.sum_append, List.sum_cons,
          List.sum_nil, recordItem, padItem]
        omega
    · exact ⟨hp, hq, hu, hf, hr⟩

/-- A drain whose in-flight list is emptied is balanced (R129, R131, R132). -/
theorem emptied_balanced {d : Drain} (h : d.Balanced) : d.emptied.Balanced := by
  obtain ⟨hp, hq, hu, hf, hr⟩ := h
  refine ⟨hp, hp, hu, ?_, ?_⟩
  · simp [Drain.emptied, Drain.flightLines, Nat.mod_eq_of_lt hp]
  · simp only [Drain.emptied, Drain.flightLines, List.map_nil, List.sum_nil]
    omega

/-- A change of items that keeps their line counts keeps the lines in flight. -/
theorem mapItem_flightLines (k : Nat) (g : DrainItem → DrainItem) (hg : ∀ x, (g x).lines = x.lines) (s : State) :
    (mapItem k g s).drain.flightLines = s.drain.flightLines := by
  simp only [mapItem, Drain.flightLines, List.map_map]
  congr 1
  refine List.map_congr_left fun x _ => ?_
  simp only [Function.comp_apply]
  split
  · exact hg x
  · rfl

/-- What retirement can do (R124): the ring loses its oldest records, the in-flight list its first items, the lines of which
move into u with p advancing, and nothing else changes. -/
theorem retire_does : ∀ (l : List DrainItem) (s : State), s.drain.inFlight = l →
    ∃ k items rest, l = items ++ rest ∧
      retire l s = { s with
        ring := { s.ring with recs := s.ring.recs.drop k }
        drain := { s.drain with
          inFlight := rest, p := (retire l s).drain.p, u := s.drain.u + (items.map DrainItem.lines).sum } } ∧
      (s.drain.p < s.drain.size →
        (retire l s).drain.p = (s.drain.p + (items.map DrainItem.lines).sum) % s.drain.size)
  | [], s, h => ⟨0, [], [], rfl, show s = { s with drain := { s.drain with inFlight := [] } } by rw [← h], fun hp => by simp [retire, Nat.mod_eq_of_lt hp]⟩
  | it :: l, s, h => by
    unfold retire
    split
    · obtain ⟨k, items, rest, hl, hs, hp⟩ := retire_does l
        { s with
          ring := { s.ring with recs := if it.seq.isSome then s.ring.recs.tail else s.ring.recs }
          drain := { s.drain with inFlight := l, p := (s.drain.p + it.lines) % s.drain.size, u := s.drain.u + it.lines } }
        rfl
      refine ⟨if it.seq.isSome then k + 1 else k, it :: items, rest, by rw [hl]; rfl, ?_, ?_⟩
      · rw [hs]
        cases it.seq.isSome <;> simp [Nat.add_assoc]
      · intro hlt
        rw [hp (Nat.mod_lt _ (by omega))]
        simp only [List.map_cons, List.sum_cons]
        rw [Nat.mod_add_mod, Nat.add_assoc]
    · exact ⟨0, [], it :: l, rfl, by rw [← h]; simp, fun hp => by simp [Nat.mod_eq_of_lt hp]⟩

/-- Retirement keeps the indices in balance. -/
theorem retire_balanced {s : State} (h : s.drain.Balanced) : (retire s.drain.inFlight s).drain.Balanced := by
  obtain ⟨k, items, rest, hl, hs, hp⟩ := retire_does s.drain.inFlight s rfl
  obtain ⟨h1, h2, h3, h4, h5⟩ := h
  have hp' := hp h1
  have hd : (retire s.drain.inFlight s).drain = { s.drain with
      inFlight := rest, p := (s.drain.p + (items.map DrainItem.lines).sum) % s.drain.size
      u := s.drain.u + (items.map DrainItem.lines).sum } := by
    rw [← hp']
    exact congrArg State.drain hs
  have hsum : s.drain.flightLines = (items.map DrainItem.lines).sum + (rest.map DrainItem.lines).sum := by
    unfold Drain.flightLines
    rw [hl, List.map_append, List.sum_append]
  rw [hsum] at h4 h5
  rw [hd]
  refine ⟨Nat.mod_lt _ (by omega), h2, ?_, ?_, ?_⟩
  · show (s.drain.c + (s.drain.u + (items.map DrainItem.lines).sum)) % s.drain.size =
      (s.drain.p + (items.map DrainItem.lines).sum) % s.drain.size
    rw [← h3, Nat.mod_add_mod, Nat.add_assoc]
  · simp only [Drain.flightLines]
    rw [Nat.mod_add_mod, Nat.add_assoc, h4]
  · simp only [Drain.flightLines]
    omega

/-- Retirement keeps the numbers of the ring. -/
theorem retire_numbered {s : State} (h : s.ring.numbered) : (retire s.drain.inFlight s).ring.numbered := by
  obtain ⟨k, items, rest, hl, hs, hp⟩ := retire_does s.drain.inFlight s rfl
  rw [hs]
  exact numbered_drop h k

end Sys2Proof.Machine
end

