-- ==== Sys2Proof/Laws/Formats.lean ====
section
/-! SUPPORT. The lengths of the byte forms, and the byte that a one-byte argument field reads. -/

namespace Sys2Proof.Machine

@[simp] theorem leBytes_length (n v : Nat) : (leBytes n v).length = n := by
  induction n generalizing v with
  | zero => rfl
  | succ n ih => simp [leBytes, ih]

@[simp] theorem beBytes_length (n v : Nat) : (beBytes n v).length = n := by simp [beBytes]

/-- A record header is 32 bytes in either byte order (R172, R173). -/
theorem header_length_be (h : Header) : (h.bytesBy beBytes).length = 32 := by simp [Header.bytesBy]

theorem header_length_le (h : Header) : (h.bytesBy leBytes).length = 32 := by simp [Header.bytesBy]

theorem argField_head {args : List Byte} {b : Byte} (h : args.head? = some b) :
    1 ≤ args.length ∧ argField args 0 1 = b.toNat := by
  cases args with
  | nil => simp at h
  | cons x xs =>
    simp only [List.head?_cons, Option.some.injEq] at h
    subst h
    exact ⟨by simp, by simp [argField, beValue, leValue]⟩

theorem leValue_lt (bs : List Byte) : leValue bs < 256 ^ bs.length := by
  induction bs with
  | nil => simp [leValue]
  | cons b bs ih =>
    have := b.isLt
    simp only [leValue, List.length_cons, Nat.pow_succ]
    omega

/-- An argument field of `n` bytes is below 256 to the power `n` (R171). -/
theorem argField_lt (args : List Byte) (off n : Nat) : argField args off n < 256 ^ n := by
  have h := leValue_lt ((args.drop off).take n).reverse
  refine Nat.lt_of_lt_of_le h (Nat.pow_le_pow_right (by decide) ?_)
  simp

/-- The bytes of the number that a list of bytes spells are the list (R171). -/
theorem leBytes_leValue (bs : List Byte) : leBytes bs.length (leValue bs) = bs := by
  induction bs with
  | nil => rfl
  | cons b bs ih =>
    have e : (b.toNat + 256 * leValue bs) / 256 = leValue bs := by have := b.isLt; omega
    simp only [List.length_cons, leBytes, leValue, e, ih, List.cons.injEq, and_true]
    apply BitVec.eq_of_toNat_eq
    simpa using b.isLt

end Sys2Proof.Machine
end

