-- ==== Sys2Proof/Laws/Links.lean ====
section
/-! SUPPORT. The routing of a memory response: which operation a response with an outstanding tag runs. -/

namespace Sys2Proof.Machine

theorem answering_tag {o : Outstanding} {tag : MemTag} {s : State} (h : s.answering o tag) : o.req.tag = tag := by
  have := List.find?_some h.2
  simpa using this

/-- A response with an outstanding tag goes to the tag's owner, after the tag is free, and the arbiter looks last (R146). -/
theorem routeResponse_answering {o : Outstanding} {tag : MemTag} {s : State} (h : s.answering o tag) (st : MemStatus)
    (data : List Byte) :
    routeResponse tag st data s =
      settle (ownerResponded o st (responseData o.req st data s.freeCount) (closeTag tag (responseFree o.req st data s))) := by
  unfold routeResponse
  rw [if_neg (by simp [h.1]), h.2]

/-- A response with no outstanding tag is dropped (R148). -/
theorem routeResponse_stray {tag : MemTag} {s : State} (hr : s.resetHeld = false)
    (h : ∀ o ∈ s.mem.outstanding, o.req.tag ≠ tag) (st : MemStatus) (data : List Byte) :
    routeResponse tag st data s = stray tag s := by
  have hf : s.mem.outstanding.find? (fun o => o.req.tag == tag) = none := by
    rw [List.find?_eq_none]
    intro o ho
    simp [h o ho]
  unfold routeResponse
  rw [if_neg (by simp [hr]), hf]

/-- A write's response, a FAULT, and a read's data in the right number use up no free value. -/
theorem responseFree_exact {m : MemReq} {st : MemStatus} {data : List Byte} (s : State)
    (h : m.kind = .read → st = .ok → data.length = m.len) : responseFree m st data s = s := by
  unfold responseFree
  cases hk : m.kind <;> cases st <;> simp [useFree]
  exact fun hd => absurd (h hk rfl) hd

/-- The data of a read answered OK is the response's own where it has one byte for each byte of the length. -/
theorem responseData_exact {m : MemReq} {data : List Byte} (k : Nat) (hm : m.kind = .read) (h : data.length = m.len) :
    responseData m .ok data k = data := by simp [responseData, hm, linkData, h]

theorem preread_tag (i : BitVec 3) : (BitVec.ofNat 8 (64 + i.toNat) : MemTag).toNat = 64 + i.toNat := by
  have := i.isLt
  rw [BitVec.toNat_ofNat, Nat.mod_eq_of_lt]
  omega

theorem drain_tag (n : BitVec 2) : (BitVec.ofNat 8 (73 + n.toNat) : MemTag).toNat = 73 + n.toNat := by
  have := n.isLt
  rw [BitVec.toNat_ofNat, Nat.mod_eq_of_lt]
  omega

@[simp] theorem closeTag_entry (t : MemTag) (s : State) (i : Nat) : (closeTag t s).entry i = s.entry i := rfl

/-- The owner of a host tag is the host (R146, R147). -/
theorem ownerResponded_host {o : Outstanding} (h : o.req.tag.toNat < 64) (st : MemStatus) (data : List Byte) (s : State) :
    ownerResponded o st data s = hostResponded o.req st data s := by simp [ownerResponded, h]

/-- The owner of tag 64 plus i is hold entry i (R140, R146). -/
theorem ownerResponded_preread {o : Outstanding} {i : BitVec 3} (h : o.req.tag = BitVec.ofNat 8 (64 + i.toNat))
    (st : MemStatus) (data : List Byte) (s : State) : ownerResponded o st data s = prereadResponded i.toNat st data s := by
  have hi := i.isLt
  unfold ownerResponded
  rw [h, preread_tag, if_neg (by omega), if_pos (by omega)]
  congr 1
  omega

/-- The owner of tag 72 is the rollback engine, by the kind of its request (R140, R146). -/
theorem ownerResponded_rollback {o : Outstanding} (h : o.req.tag = 72) (st : MemStatus) (data : List Byte) (s : State) :
    ownerResponded o st data s =
      match o.req.kind with
      | .read => checkResponded o.req.addr st data s
      | .write => restoreResponded o.req.addr st s := by
  unfold ownerResponded
  rw [h]
  rfl

/-- The owner of tag 73 plus n is the drain engine (R140, R146). -/
theorem ownerResponded_drain {o : Outstanding} {n : BitVec 2} (h : o.req.tag = BitVec.ofNat 8 (73 + n.toNat))
    (st : MemStatus) (data : List Byte) (s : State) : ownerResponded o st data s = drainResponded o st s := by
  unfold ownerResponded
  rw [h, drain_tag, if_neg (by omega), if_neg (by omega), if_neg (by omega)]

end Sys2Proof.Machine
end

