-- ==== Sys2Proof/Laws/Port.lean ====
section
/-! SUPPORT. What the port receives in a frame, and what the end of a frame can do: nothing under reset, SHORT with too few
argument bytes, and otherwise the command's answer. -/

namespace Sys2Proof

/-! ### Samples and bytes -/

/-- What is received after some bytes are complete does not depend on those bytes (R163). -/
theorem foldl_sample (pre : List Byte) : ∀ (bits : List Bool) (r : Receiver),
    bits.foldl Receiver.sample { r with received := pre ++ r.received } =
      { bits.foldl Receiver.sample r with received := pre ++ (bits.foldl Receiver.sample r).received }
  | [], _ => rfl
  | b :: bits, r => by
    have h : Receiver.sample { r with received := pre ++ r.received } b =
        { r.sample b with received := pre ++ (r.sample b).received } := by
      unfold Receiver.sample
      dsimp only
      split <;> simp
    rw [List.foldl_cons, h, foldl_sample pre bits, List.foldl_cons]

theorem receive_msbBits (b : Byte) : receive (msbBits b) = { received := [b], bitCount := 0, shift := 0 } := by
  revert b
  decide

/-- A byte's bits, then more: the byte is received first (R163). -/
theorem receive_byte (b : Byte) (bits : List Bool) :
    receive (msbBits b ++ bits) = { receive bits with received := b :: (receive bits).received } := by
  have h := foldl_sample [b] bits Receiver.empty
  unfold receive
  rw [List.foldl_append, show (msbBits b).foldl Receiver.sample Receiver.empty = _ from receive_msbBits b]
  exact h

/-- The bits of some bytes are received as those bytes. -/
theorem receive_bytes (bs : List Byte) (bits : List Bool) :
    receive (bs.flatMap msbBits ++ bits) = { receive bits with received := bs ++ (receive bits).received } := by
  induction bs with
  | nil => rfl
  | cons b bs ih => rw [List.flatMap_cons, List.append_assoc, receive_byte, ih]; rfl

/-- Fewer than eight bits more complete no byte (R163). -/
theorem foldl_sample_short : ∀ (bits : List Bool) (r : Receiver), r.bitCount + bits.length < 8 →
    (bits.foldl Receiver.sample r).received = r.received ∧
    (bits.foldl Receiver.sample r).bitCount = r.bitCount + bits.length
  | [], _, _ => ⟨rfl, rfl⟩
  | b :: bits, r, h => by
    rw [List.length_cons] at h
    have e : r.sample b = { r with bitCount := r.bitCount + 1, shift := r.shift <<< 1 ||| BitVec.ofNat 8 b.toNat } := by
      unfold Receiver.sample
      rw [if_pos (by omega)]
    rw [List.foldl_cons, e, List.length_cons]
    have := foldl_sample_short bits
      { r with bitCount := r.bitCount + 1, shift := r.shift <<< 1 ||| BitVec.ofNat 8 b.toNat } (by simp only; omega)
    exact ⟨this.1, by rw [this.2]; simp only; omega⟩

theorem receive_short {bits : List Bool} (h : bits.length < 8) :
    (receive bits).received = [] ∧ (receive bits).bitCount = bits.length := by
  have := foldl_sample_short bits Receiver.empty (by simpa [Receiver.empty] using h)
  exact ⟨this.1, by rw [receive, this.2]; simp [Receiver.empty]⟩

/-- The bit count stays below 8 (R162). -/
theorem foldl_sample_bitCount : ∀ (bits : List Bool) (r : Receiver), r.bitCount ≤ 7 →
    (bits.foldl Receiver.sample r).bitCount ≤ 7
  | [], _, h => h
  | b :: bits, r, h => by
    refine foldl_sample_bitCount bits _ ?_
    unfold Receiver.sample
    dsimp only
    split
    · simp only; omega
    · simp

theorem Frame.left_le (f : Frame) : f.left ≤ 7 := foldl_sample_bitCount f.bits _ (by simp [Receiver.empty])

namespace Machine

/-! ### The edges of a frame -/

theorem foldl_clock : ∀ (bits : List Bool) (p : Port), p.inFrame = true →
    bits.foldl Port.clock p = { p with rx := bits.foldl Receiver.sample p.rx }
  | [], _, _ => rfl
  | b :: bits, p, h => by
    have e : p.clock b = { p with rx := p.rx.sample b } := by simp [Port.clock, h]
    rw [List.foldl_cons, e, foldl_clock bits _ (by exact h), List.foldl_cons]

/-- Before the rise that ends it, a frame is in progress and has received what its samples make (R163). -/
theorem during_eq (p : Port) (bits : List Bool) :
    p.during bits = { p.rise with inFrame := true, rx := receive bits } := by
  have e : p.rise.fall = { p.rise with inFrame := true, rx := Receiver.empty } := by simp [Port.fall, Port.rise]
  unfold Port.during
  rw [e, foldl_clock _ _ rfl]
  rfl

/-- After a frame none is in progress, and MISO has carried one byte for each byte received (R163, R164). -/
theorem during_rise (p : Port) (bits : List Bool) :
    (p.during bits).rise = { p with
      inFrame := false, rx := Receiver.empty, awaitRise := false
      shifted := p.shiftOut (receive bits).received.length (receive bits).bitCount } := by
  rw [during_eq]
  simp only [Port.rise, if_true]
  rfl

/-- A frame with a code byte has received that byte and its argument bytes. -/
theorem during_received (p : Port) (code : Byte) (f : Frame) :
    (p.during (msbBits code ++ f.bits)).rx.received = code :: f.args := by
  rw [during_eq, receive_byte]
  rfl

theorem framed_eq (code : Byte) (f : Frame) (s : State) :
    ({ s with port := (s.port.during (msbBits code ++ f.bits)).rise } : State) = framed f s := by
  rw [during_rise, receive_byte]
  simp only [framed, Receiver.empty, List.length_cons, Nat.add_comm 1]
  rfl

/-! ### The end of a frame -/

variable {code : Byte} {argc : Nat} {run : List Byte → State → Reply} {f : Frame} {s t : State}

theorem portFrame_held (h : s.resetHeld = true) : portFrame code argc run f s = s := by simp [portFrame, h]

/-- Outside reset a frame is over before its command runs, on the argument bytes received (R165). -/
theorem portFrame_eq (h : s.resetHeld = false) :
    portFrame code argc run f s =
      if f.args.length < argc then answered .short [] (framed f s)
      else
        { (run f.args (framed f s)).state with
          port := (run f.args (framed f s)).state.port.answer (run f.args (framed f s)).outcome (run f.args (framed f s)).result } := by
  unfold portFrame
  rw [if_neg (by simp [h]), ← framed_eq code f s]
  dsimp only
  rw [during_received]
  rfl

theorem portFrame_short (h : s.resetHeld = false) (hf : f.args.length < argc) :
    portFrame code argc run f s = answered .short [] (framed f s) := by
  rw [portFrame_eq h, if_pos hf]

/-- The command runs on the argument bytes and the state of the ended frame, and its outcome is held, with its result for OK
only (R165). -/
theorem portFrame_run (h : s.resetHeld = false) (hf : argc ≤ f.args.length) :
    portFrame code argc run f s =
      answered (run f.args (framed f s)).outcome
        (if (run f.args (framed f s)).outcome = .ok then (run f.args (framed f s)).result else [])
        (run f.args (framed f s)).state := by
  rw [portFrame_eq h, if_neg (by omega)]
  rfl

theorem portFrame_done (h : s.resetHeld = false) (hf : argc ≤ f.args.length) (hr : run f.args (framed f s) = done t) :
    portFrame code argc run f s = answered .ok [] t := by
  rw [portFrame_run h hf, hr]; rfl

theorem portFrame_shows {b : List Byte} (h : s.resetHeld = false) (hf : argc ≤ f.args.length)
    (hr : run f.args (framed f s) = shows b t) : portFrame code argc run f s = answered .ok b t := by
  rw [portFrame_run h hf, hr]; rfl

theorem portFrame_refuses {o : PortOutcome} (h : s.resetHeld = false) (hf : argc ≤ f.args.length)
    (hr : run f.args (framed f s) = refuses o t) : portFrame code argc run f s = answered o [] t := by
  rw [portFrame_run h hf, hr]
  cases o <;> rfl

/-! ### A frame's end touches the port alone -/

@[simp] theorem framed_window (f : Frame) (s : State) (i : Nat) : (framed f s).window i = s.window i := rfl
@[simp] theorem framed_entry (f : Frame) (s : State) (i : Nat) : (framed f s).entry i = s.entry i := rfl
@[simp] theorem framed_stageAt (f : Frame) (s : State) (i : Nat) : (framed f s).stageAt i = s.stageAt i := rfl
@[simp] theorem framed_drainTags (f : Frame) (s : State) : (framed f s).drainTags = s.drainTags := rfl
@[simp] theorem framed_recording (f : Frame) (s : State) : (framed f s).recording = s.recording := rfl

end Machine

end Sys2Proof
end

