-- ==== Sys2Proof/Laws/Rollback.lean ====
section
/-! SUPPORT. What the rollback engine can do: one relation between the states before and after, which its visits, its
responses and its ends meet. -/

namespace Sys2Proof.Machine

/-- `t` comes from `s` by rollback work: the session, the sequencer, the drain, the host link and what is outstanding on the
memory link are as before, the ring has the same records but for their restored flags, and the path issue queue has only
grown, by items that carry no drain tag. -/
structure RbWork (s t : State) : Prop where
  session : t.session = s.session
  seqr : t.seqr = s.seqr
  drain : t.drain = s.drain
  host : t.host = s.host
  outstanding : t.mem.outstanding = s.mem.outstanding
  sent : t.mem.sent = s.mem.sent
  lastGrant : t.mem.lastGrant = s.mem.lastGrant
  enabled : t.events.enabled = s.events.enabled
  queued : ∃ l, t.mem.queue = s.mem.queue ++ l ∧ ∀ m ∈ l, isDrainTag m.tag = false
  ring : t.ring = { s.ring with recs := t.ring.recs }
  numbers : t.ring.recs.map Rec.seq = s.ring.recs.map Rec.seq

namespace RbWork

theorem refl (s : State) : RbWork s s := ⟨rfl, rfl, rfl, rfl, rfl, rfl, rfl, rfl, ⟨[], by simp⟩, rfl, rfl⟩

theorem trans {s t u : State} (h : RbWork s t) (k : RbWork t u) : RbWork s u where
  session := k.session.trans h.session
  seqr := k.seqr.trans h.seqr
  drain := k.drain.trans h.drain
  host := k.host.trans h.host
  outstanding := k.outstanding.trans h.outstanding
  sent := k.sent.trans h.sent
  lastGrant := k.lastGrant.trans h.lastGrant
  enabled := k.enabled.trans h.enabled
  queued := by
    obtain ⟨l, hl, hd⟩ := h.queued
    obtain ⟨m, hm, he⟩ := k.queued
    refine ⟨l ++ m, by rw [hm, hl, List.append_assoc], fun x hx => ?_⟩
    rcases List.mem_append.1 hx with h1 | h1
    · exact hd x h1
    · exact he x h1
  ring := by
    have a := k.ring
    rw [h.ring] at a
    exact a
  numbers := k.numbers.trans h.numbers

/-- Rollback work keeps the numbers of the ring. -/
theorem numbered {s t : State} (h : RbWork s t) (n : s.ring.numbered) : t.ring.numbered := by
  have e := h.numbers
  have el : t.ring.recs.length = s.ring.recs.length := by simpa using congrArg List.length e
  have en : t.ring.nextSeq = s.ring.nextSeq := by rw [h.ring]
  exact ⟨by rw [el, en]; exact n.1, by rw [e, el, en]; exact n.2⟩

theorem drainTags {s t : State} (h : RbWork s t) : t.drainTags = s.drainTags := by
  unfold State.drainTags
  rw [h.outstanding]

end RbWork

theorem HoldWork.rbWork {s t : State} (h : HoldWork s t) : RbWork s t :=
  ⟨h.session, h.seqr, h.drain, h.host, h.outstanding, h.sent, h.lastGrant, by rw [h.events], h.queued, by rw [h.ring],
    by rw [h.ring]⟩

theorem rollback_rbWork (r : Rollback) (s : State) : RbWork s { s with rollback := r } :=
  ⟨rfl, rfl, rfl, rfl, rfl, rfl, rfl, rfl, ⟨[], by simp⟩, rfl, rfl⟩

theorem raise_rbWork (e : Event) (s : State) : RbWork s (raise e s) :=
  ⟨rfl, rfl, rfl, rfl, rfl, rfl, rfl, rfl, ⟨[], by simp⟩, rfl, rfl⟩

theorem rollbackFault_rbWork (a : Addr) (s : State) : RbWork s (rollbackFault a s) := by
  unfold rollbackFault offerFault
  split <;> exact ⟨rfl, rfl, rfl, rfl, rfl, rfl, rfl, rfl, ⟨[], by simp⟩, rfl, rfl⟩

theorem endRollback_rbWork (r : RbResult) (s : State) : RbWork s (endRollback r s) :=
  (rollback_rbWork _ s).trans (raise_rbWork ..)

theorem claimLine_rbWork (a : Addr) (s : State) : RbWork s (claimLine a s) := (claimLine_holdWork a s).rbWork

theorem queueRestore_rbWork (s : State) : RbWork s (queueRestore s) := (queueRestore_holdWork s).rbWork

theorem releaseChecking_rbWork (s : State) : RbWork s (releaseChecking s) := (releaseChecking_holdWork s).rbWork

theorem visit_rbWork : ∀ (n : Nat) (s : State), RbWork s (visit n s)
  | 0, s => by
    unfold visit
    split
    · exact claimLine_rbWork ..
    · exact (rollback_rbWork _ s).trans (endRollback_rbWork ..)
  | n + 1, s => by
    unfold visit
    split
    · exact claimLine_rbWork ..
    · exact ((rollback_rbWork _ s).trans (rollback_rbWork _ _)).trans (visit_rbWork n _)

theorem advance_rbWork (s : State) : RbWork s (advance s) := by
  unfold advance
  split
  · exact endRollback_rbWork ..
  · exact (rollback_rbWork _ s).trans (visit_rbWork ..)

theorem conflict_rbWork (s : State) : RbWork s (conflict s) := by
  have h := (rollback_rbWork { s.rollback with conflicts := s.rollback.conflicts + 1 } s).trans (releaseChecking_rbWork _)
  unfold conflict
  dsimp only
  split
  · exact h.trans (advance_rbWork _)
  · exact h.trans (advance_rbWork _)
  · exact h.trans (endRollback_rbWork ..)

theorem setRestored_seq (r : Rec) : r.setRestored.seq = r.seq := by unfold Rec.setRestored; split <;> rfl

theorem markRestored_rbWork (s : State) : RbWork s (markRestored s) := by
  refine ⟨rfl, rfl, rfl, rfl, rfl, rfl, rfl, rfl, ⟨[], by simp [markRestored]⟩, rfl, ?_⟩
  simp only [markRestored, List.map_map]
  refine List.map_congr_left fun r _ => ?_
  simp only [Function.comp_apply]
  split
  · exact setRestored_seq r
  · rfl

theorem endAborting_rbWork (s : State) : RbWork s (endAborting s) := endRollback_rbWork ..

theorem checkResponded_rbWork (a : Addr) (st : MemStatus) (l : List Byte) (s : State) :
    RbWork s (checkResponded a st l s) := by
  unfold checkResponded
  split
  · split
    · split
      · exact (queueRestore_rbWork s).trans (releaseChecking_rbWork _)
      · exact conflict_rbWork s
    · exact ((releaseChecking_rbWork s).trans (endRollback_rbWork ..)).trans (rollbackFault_rbWork ..)
  · exact endAborting_rbWork s
  all_goals exact RbWork.refl s

theorem restoreResponded_rbWork (a : Addr) (st : MemStatus) (s : State) : RbWork s (restoreResponded a st s) := by
  unfold restoreResponded
  split
  · split
    · exact (markRestored_rbWork s).trans (advance_rbWork _)
    · exact (endRollback_rbWork _ s).trans (rollbackFault_rbWork ..)
  · split
    · exact (markRestored_rbWork s).trans (endAborting_rbWork _)
    · exact (rollbackFault_rbWork _ s).trans (endAborting_rbWork _)
  all_goals exact RbWork.refl s

theorem endEarly_rbWork (why : RbPending) (s : State) : RbWork s (endEarly why s) := by
  unfold endEarly
  split
  · exact RbWork.refl s
  · exact (withdrawClaim_holdWork s).rbWork.trans (endRollback_rbWork ..)
  · exact (rollback_rbWork _ s).trans (releaseChecking_rbWork _)
  · exact rollback_rbWork _ s
  · split
    · exact RbWork.refl s
    · exact rollback_rbWork _ s

end Sys2Proof.Machine
end

