-- ==== Sys2Proof/Laws/Settle.lean ====
section
/-! SUPPORT. What the end of an event can do: requests leave on the memory link, the drain places and offers, and nothing
else. -/

namespace Sys2Proof.Machine

/-- `t` comes from `s` by grants and placements (R121, R122, R144, R145): `ms` are the requests issued, of which `ps` came from
the path issue queue. -/
structure GrantWork (s t : State) : Prop where
  same : t = { s with
    mem := { s.mem with
      queue := t.mem.queue, outstanding := t.mem.outstanding, lastGrant := t.mem.lastGrant, sent := t.mem.sent }
    drain := { s.drain with inFlight := t.drain.inFlight, q := t.drain.q, offered := t.drain.offered } }
  issued : ∃ ms, t.mem.sent = s.mem.sent ++ ms ∧
    t.mem.outstanding.map Outstanding.req = s.mem.outstanding.map Outstanding.req ++ ms ∧
    ((∀ m ∈ s.mem.queue, isDrainTag m.tag = false) →
      s.mem.queue = ms.filter (fun m => !isDrainTag m.tag) ++ t.mem.queue)
  idle : s.drain.state ≠ .running → s.drain.offered = none → t.drain = s.drain

namespace GrantWork

theorem refl (s : State) : GrantWork s s := ⟨rfl, ⟨[], by simp, by simp, by simp⟩, fun _ _ => rfl⟩

theorem trans {s t u : State} (h : GrantWork s t) (k : GrantWork t u) : GrantWork s u := by
  refine ⟨?_, ?_, ?_⟩
  · have a := k.same
    have b := h.same
    rw [b] at a
    exact a
  · obtain ⟨l, h1, h2, h3⟩ := h.issued
    obtain ⟨m, k1, k2, k3⟩ := k.issued
    refine ⟨l ++ m, by rw [k1, h1, List.append_assoc], by rw [k2, h2, List.append_assoc], fun hq => ?_⟩
    have e := h3 hq
    rw [List.filter_append, List.append_assoc, ← k3, ← e]
    intro x hx
    exact hq x (e ▸ List.mem_append_right _ hx)
  · intro h1 h2
    have e := h.idle h1 h2
    rw [k.idle (e ▸ h1) (e ▸ h2), e]

variable {s t : State} (h : GrantWork s t)
include h

theorem host : t.host = s.host := by rw [h.same]
theorem ingress : t.ingress = s.ingress := by rw [h.same]
theorem hold : t.hold = s.hold := by rw [h.same]
theorem ring : t.ring = s.ring := by rw [h.same]
theorem session : t.session = s.session := by rw [h.same]
theorem seqr : t.seqr = s.seqr := by rw [h.same]
theorem rollback : t.rollback = s.rollback := by rw [h.same]
theorem events : t.events = s.events := by rw [h.same]
theorem time : t.time = s.time := by rw [h.same]
theorem port : t.port = s.port := by rw [h.same]
theorem windows : t.windows = s.windows := by rw [h.same]
theorem engaged : t.engaged = s.engaged := by rw [h.same]
theorem credit : t.mem.credit = s.mem.credit := by rw [h.same]
theorem drainState : t.drain.state = s.drain.state := by rw [h.same]
theorem drainSize : t.drain.size = s.drain.size := by rw [h.same]

end GrantWork

theorem place_same (d : Drain) (r : Rec) :
    d.place r = { d with inFlight := (d.place r).inFlight, q := (d.place r).q, offered := (d.place r).offered } := by
  unfold Drain.place
  split <;> split <;> rfl

theorem drainPlaced_same (s : State) :
    s.drainPlaced = { s.drain with
      inFlight := s.drainPlaced.inFlight, q := s.drainPlaced.q, offered := s.drainPlaced.offered } := by
  unfold State.drainPlaced
  split
  · rfl
  · split
    · split
      · rfl
      · exact place_same ..
    · rfl

theorem offerNext_grantWork (s : State) : GrantWork s (offerNext s) := by
  unfold offerNext
  split
  · rename_i hr
    refine ⟨?_, ⟨[], by simp, by simp, by simp⟩, fun h _ => absurd hr.1 h⟩
    have h := drainPlaced_same s
    generalize s.drainPlaced = d at h ⊢
    rw [h]
  · exact GrantWork.refl s

theorem grantPath_grantWork (s : State) : GrantWork s (grantPath s) := by
  unfold grantPath
  split
  · exact GrantWork.refl s
  · rename_i m rest hq
    refine ⟨rfl, ⟨[m], by simp, by simp, fun h => ?_⟩, fun _ _ => rfl⟩
    have : isDrainTag m.tag = false := h m (by simp [hq])
    simp [hq, this]

theorem freeDrainTag_isDrain {s : State} {t : MemTag} (h : s.freeDrainTag = some t) : isDrainTag t = true := by
  have := List.mem_of_find?_eq_some h
  simp only [List.mem_cons, List.not_mem_nil, or_false] at this
  rcases this with rfl | rfl | rfl | rfl <;> decide

theorem grantDrain_grantWork (s : State) : GrantWork s (grantDrain s) := by
  unfold grantDrain
  split
  · rename_i o t ho ht
    refine GrantWork.trans ?_ (offerNext_grantWork _)
    refine ⟨rfl, ⟨[_], by simp; rfl, by simp, fun _ => ?_⟩, fun _ h => ?_⟩
    · simp [freeDrainTag_isDrain ht]
    · rw [ho] at h; simp at h
  · exact GrantWork.refl s

theorem grants_grantWork : ∀ (n : Nat) (s : State), GrantWork s (grants n s)
  | 0, s => GrantWork.refl s
  | n + 1, s => by
    unfold grants
    split
    · exact GrantWork.refl s
    · exact (grantPath_grantWork s).trans (grants_grantWork n _)
    · exact (grantDrain_grantWork s).trans (grants_grantWork n _)

/-- The end of an event is grants and placements, and nothing else. -/
theorem settle_grantWork (s : State) : GrantWork s (settle s) := (offerNext_grantWork s).trans (grants_grantWork ..)

/-! ### Credits -/

theorem offerNext_mem (s : State) : (offerNext s).mem = s.mem := by unfold offerNext; split <;> rfl

theorem grantPath_outstanding_le (s : State) : (grantPath s).mem.outstanding.length ≤ s.mem.outstanding.length + 1 := by
  unfold grantPath; split <;> simp

theorem grantDrain_outstanding_le (s : State) :
    (grantDrain s).mem.outstanding.length ≤ s.mem.outstanding.length + 1 := by
  unfold grantDrain; split
  · rw [offerNext_mem]; simp
  · simp

theorem grants_outstanding_le : ∀ (n : Nat) (s : State),
    (grants n s).mem.outstanding.length ≤ s.mem.outstanding.length + n
  | 0, s => by simp [grants]
  | n + 1, s => by
    unfold grants
    split
    · omega
    · have := grants_outstanding_le n (grantPath s)
      have := grantPath_outstanding_le s
      omega
    · have := grants_outstanding_le n (grantDrain s)
      have := grantDrain_outstanding_le s
      omega

/-- The grants of an event stay within the announced credit (R145). -/
theorem settle_outstanding_le {s : State} (h : s.mem.outstanding.length ≤ s.mem.credit) :
    (settle s).mem.outstanding.length ≤ s.mem.credit := by
  have := grants_outstanding_le ((offerNext s).mem.credit - (offerNext s).mem.outstanding.length) (offerNext s)
  rw [offerNext_mem] at this
  unfold settle
  dsimp only
  rw [offerNext_mem]
  omega

/-! ### The drain's tags -/

theorem drainTags_issue (m : MemReq) (k : Option Nat) (who : Requester) (s : State) :
    (issue m k who s).drainTags = s.drainTags ++ (if isDrainTag m.tag then [m.tag] else []) := by
  simp only [State.drainTags, issue, List.map_append, List.filter_append]
  cases h : isDrainTag m.tag <;> simp [h]

/-- While fewer than four drain tags are outstanding one is free (R122). -/
theorem freeDrainTag_of_lt {s : State} (h : s.drainTags.length < 4) : ∃ t, s.freeDrainTag = some t := by
  by_contra hn
  have hnone : s.freeDrainTag = none := by
    cases hf : s.freeDrainTag with
    | none => rfl
    | some t => exact absurd ⟨t, hf⟩ hn
  unfold State.freeDrainTag at hnone
  rw [List.find?_eq_none] at hnone
  have hsub : ([73, 74, 75, 76] : List MemTag) ⊆ s.drainTags := by
    intro t ht
    simpa using hnone t ht
  have hnd : ([73, 74, 75, 76] : List MemTag).Nodup := by decide
  have := (hnd.subperm hsub).length_le
  simp at this
  omega

theorem offerNext_offered_lt {s : State} (h : s.drain.offered ≠ none → s.drainTags.length < 4) :
    (offerNext s).drain.offered ≠ none → (offerNext s).drainTags.length < 4 := by
  have e : (offerNext s).drainTags = s.drainTags := by unfold State.drainTags; rw [offerNext_mem]
  rw [e]
  unfold offerNext
  split
  · rename_i hr
    exact fun _ => hr.2.2
  · exact h

/-- What the grants leave (R145): a credit is free only where no request is ready, provided the path issue queue holds no
drain tag and a drain tag is free while a line is offered. -/
theorem grants_leave_none : ∀ (n : Nat) (s : State),
    (∀ m ∈ s.mem.queue, isDrainTag m.tag = false) → (s.drain.offered ≠ none → s.drainTags.length < 4) →
    ((grants n s).mem.outstanding.length = s.mem.outstanding.length + n ∨
      (grants n s).mem.queue = [] ∧ (grants n s).drain.offered = none) ∧
    (∀ m ∈ (grants n s).mem.queue, isDrainTag m.tag = false) ∧
    ((grants n s).drain.offered ≠ none → (grants n s).drainTags.length < 4)
  | 0, s, hq, ho => ⟨.inl rfl, hq, ho⟩
  | n + 1, s, hq, ho => by
    unfold grants
    split
    · rename_i hg
      refine ⟨.inr ?_, hq, ho⟩
      unfold State.grantee at hg
      split at hg
      · rename_i h1 h2
        exact ⟨List.isEmpty_iff.mp h1, Option.isNone_iff_eq_none.mp h2⟩
      · simp at hg
      · simp at hg
      · split at hg <;> simp at hg
    · rename_i hg
      obtain ⟨m, rest, hm⟩ : ∃ m rest, s.mem.queue = m :: rest := by
        unfold State.grantee at hg
        cases hc : s.mem.queue with
        | nil => rw [hc] at hg; cases hd : s.drain.offered <;> simp [hd] at hg
        | cons m rest => exact ⟨m, rest, rfl⟩
      have e : grantPath s = issue m none .path { s with mem := { s.mem with queue := rest } } := by
        unfold grantPath; rw [hm]
      have h1 : isDrainTag m.tag = false := hq m (by simp [hm])
      have ih := grants_leave_none n (grantPath s)
        (by rw [e]; intro x hx; exact hq x (by rw [hm]; exact List.mem_cons_of_mem _ hx))
        (by
          rw [e, drainTags_issue, h1]
          intro h
          simp only [Bool.false_eq_true, if_false, List.append_nil]
          exact ho h)
      refine ⟨?_, ih.2⟩
      rcases ih.1 with h2 | h2
      · left
        rw [h2, e]
        simp
        omega
      · exact .inr h2
    · rename_i hg
      obtain ⟨o, hoff⟩ : ∃ o, s.drain.offered = some o := by
        unfold State.grantee at hg
        cases hd : s.drain.offered with
        | none => rw [hd] at hg; cases hc : s.mem.queue <;> simp [hc] at hg
        | some o => exact ⟨o, rfl⟩
      obtain ⟨t, ht⟩ := freeDrainTag_of_lt (ho (by simp [hoff]))
      have e : grantDrain s = offerNext (mapItem o.item (fun it => { it with issued := it.issued + 1 })
          (issue { kind := .write, tag := t, addr := o.addr, len := 64, data := o.data } (some o.item) .drain
            { s with drain := { s.drain with offered := none } })) := by
        unfold grantDrain; rw [hoff, ht]
      have ih := grants_leave_none n (grantDrain s)
        (by rw [e, offerNext_mem]; exact hq)
        (by
          rw [e]
          refine offerNext_offered_lt ?_
          intro h
          exact absurd rfl h)
      refine ⟨?_, ih.2⟩
      rcases ih.1 with h2 | h2
      · left
        rw [h2, e, offerNext_mem]
        simp
        omega
      · exact .inr h2

/-- After the end of an event no credit is free while a requester is ready. -/
theorem settle_leaves_none {s : State} (hq : ∀ m ∈ s.mem.queue, isDrainTag m.tag = false)
    (ho : s.drain.offered ≠ none → s.drainTags.length < 4) :
    ((settle s).mem.credit ≤ (settle s).mem.outstanding.length ∨
      (settle s).mem.queue = [] ∧ (settle s).drain.offered = none) ∧
    (∀ m ∈ (settle s).mem.queue, isDrainTag m.tag = false) ∧
    ((settle s).drain.offered ≠ none → (settle s).drainTags.length < 4) := by
  have h := grants_leave_none ((offerNext s).mem.credit - (offerNext s).mem.outstanding.length) (offerNext s)
    (by rw [offerNext_mem]; exact hq) (offerNext_offered_lt ho)
  have hc : (settle s).mem.credit = (offerNext s).mem.credit := by
    rw [(settle_grantWork s).credit, offerNext_mem]
  refine ⟨?_, h.2⟩
  rcases h.1 with h1 | h1
  · left
    rw [hc]
    unfold settle
    dsimp only
    omega
  · exact .inr h1

end Sys2Proof.Machine
end

