-- ==== Sys2Proof/Laws/Tables.lean ====
section
/-! SUPPORT. The tests that a request and a window pass: the extent rule, the sets of 16, and the walks over a request's
bytes. -/

namespace Sys2Proof.Machine

theorem malformed_iff (r : HostReq) : malformed r = true ↔ r.len = 0 ∨ 64 < r.len ∨ 64 < r.addr.toNat % 64 + r.len := by
  simp only [malformed, Bool.or_eq_true, beq_iff_eq, decide_eq_true_eq, or_assoc]
  rfl

theorem setWhere_getLsbD (p : Nat → Bool) {i : Nat} (h : i < 16) : (setWhere p).getLsbD i = p i := by
  simp [setWhere, h]

theorem bytesAt_any {r : HostReq} {p : Nat → Bool} : r.bytesAt.any p = true ↔ ∃ k < r.len, p (r.addr.toNat + k) = true := by
  simp [HostReq.bytesAt]

theorem anyMember_iff {m : Set16} {p : Nat → Bool} : anyMember m p = true ↔ ∃ i < 16, m.getLsbD i = true ∧ p i = true := by
  simp [anyMember]

theorem candidates_read {s : State} {r : HostReq} (h : r.kind = .read) : s.candidates r = 0 := by
  simp [State.candidates, h]

theorem candidates_bypass {s : State} {r : HostReq} (h : s.engaged = false) : s.candidates r = 0 := by
  unfold State.candidates
  cases r.kind <;> simp [h]

theorem hitSet_getLsbD (s : State) (w : HeldWrite) (old : Option (List Byte)) {i : Nat} (h : i < 16) :
    (s.hitSet w old).getLsbD i = (w.cands.getLsbD i && (s.window i).enabled && (s.window i).hitBy w.req old) :=
  setWhere_getLsbD _ h

theorem recordSet_getLsbD (s : State) (hits : Set16) {i : Nat} (h : i < 16) :
    (s.recordSet hits).getLsbD i = (hits.getLsbD i && (s.window i).record) := setWhere_getLsbD _ h

end Sys2Proof.Machine
end

