-- ==== Sys2Proof/Tests/Slice0.lean ====
section
/-! SUPPORT. Tests: what `wellFormed` refuses, frames that decode to their commands, single steps with results taken from
the rules of spec/, and for each statement with hypotheses a state and operands that meet them. -/

namespace Sys2Proof.Tests

open Sys2Proof.Machine

/-! ### Small states and operands -/

/-- The state a command leaves. -/
def run (c : Instr) (s : State) : State :=
  match exec c s with
  | .next t => t
  | .fault _ => s
  | .refused _ => s

/-- A frame with these bytes after its first. -/
def frame (args : List Byte) : Frame := ⟨args.flatMap msbBits⟩

/-- The port receives those bytes (R163). -/
theorem frame_args (args : List Byte) : (frame args).args = args := by
  show (receive (args.flatMap msbBits)).received = args
  rw [← List.append_nil (args.flatMap msbBits), receive_bytes]
  exact List.append_nil args

/-- The samples of MOSI in a frame of these bytes, most significant bit first. -/
def samples (bytes : List Byte) : List Bool := bytes.flatMap msbBits

/-- After reset, with the two links started and 4 memory credits announced. -/
def up : State :=
  { State.reset with
    host := { State.reset.host with started := true }
    mem := { State.reset.mem with credit := 4 } }

/-- RESET_N is asserted. -/
def held : State := { State.reset with resetHeld := true }

/-- A window over the 64 bytes at address 0 that watches every source and records. -/
def zone : Window := { Window.reset with enabled := true, record := true }

/-- ENGAGED, with `zone` as window 15. -/
def watching : State := { up with engaged := true, windows := up.windows.setIfInBounds 15 zone }

/-- A 2-byte write at `a` by source 3 with tag 5. -/
def write2 (a : Addr) : HostReq := { kind := .write, tag := 5, source := 3, addr := a, len := 2, data := [0xAA, 0xBB] }

def held2 (a : Addr) : HeldWrite := { req := write2 a, cands := 0x8000 }

/-- The request is at the ingress head and in the part. -/
def arrived (r : HostReq) (s : State) : State :=
  { s with ingress := { queue := [r], waiting := none }, host := { s.host with credit := 15, inPart := [r.tag] } }

/-- Entry 7 holds the write, its pre-read outstanding. -/
def reading (s : State) : State :=
  { s.setEntry 7 (.owned 0 (.reading (held2 62)) []) with
    host := { s.host with credit := 15, inPart := [5] }
    mem := { s.mem with outstanding := [{ req := preRead 7 0, item := none }] } }

/-- A session of a state. -/
def inState (st : SessionState) (s : State) : State := { s with session := { s.session with state := st } }

/-- A ring of `n` GAP records with a next_seq and a gap counter. -/
def ringOf (n next gap : Nat) (s : State) : State :=
  { s with ring := { s.ring with recs := List.replicate n ⟨0, 0, .gap 1⟩, nextSeq := next, gap := gap } }

def info2 : WriteInfo :=
  { addr := 62, len := 2, source := 3, tag := 5, windows := 0x8000, oldData := some [1, 2], newData := [0xAA, 0xBB] }

/-- The WRITE record with number `n`, undoable. -/
def undo (n : Nat) : Rec := ⟨n, 0, .write info2 .ok false⟩

/-- A ring of records 0 and 1 in a STOPPED session: the GAP record 0 and the undoable record 1. -/
def stoppedRing : State :=
  { inState .stopped up with ring := { up.ring with recs := [⟨0, 0, .gap 1⟩, undo 1], nextSeq := 2 } }

/-- The rollback engine of a state, at record 1. -/
def engine (st : RbState) (mode : RbMode) (pend : Option RbPending) : State :=
  { stoppedRing with rollback :=
      { Rollback.reset with state := st, mode := mode, cursor := 1, pendingResult := pend } }

/-- One request outstanding. -/
def awaiting (m : MemReq) (item : Option Nat) (s : State) : State :=
  { s with mem := { s.mem with outstanding := [{ req := m, item := item }] } }

def lineWrite (n : MemTag) : MemReq := { kind := .write, tag := n, addr := 0, len := 64, data := [] }

/-- A drain of 64 lines in a state. -/
def spill (st : DrainState) (s : State) : State :=
  { s with drain := { Drain.reset with state := st, size := 64, watermark := 1 } }

/-- ENGAGED, with a window over line 0 that refuses. -/
def guarding (record : Bool) : State :=
  { watching with windows := watching.windows.setIfInBounds 15 { zone with guard := .always, record := record } }

/-- An ARMED session whose stage counts a hit of any window. -/
def hunting (quiet : Bool) : State :=
  { inState .armed watching with seqr := { watching.seqr with
      state := .counting, stages := Vector.replicate 8 { Stage.reset with window := none, quiet := quiet } } }

/-- A RUNNING session under HOLD. -/
def holding : State := { inState .running watching with ring := { watching.ring with policy := .hold } }

/-- `holding` with `n` GAP records and a gap counter, entry 7 in SLOT_WAIT. -/
def slotWaiting (n gap : Nat) (next : Nat := n) : State :=
  { (ringOf n next gap holding).setEntry 7 (.owned 0 (.slotWait (held2 62) none { time := 0, info := info2 }) []) with
    ring := { (ringOf n next gap holding).ring with slotList := [7] } }

/-- A write waiting at the ingress head, with the claimants of the free-entry arbiter. -/
def claimants (l : List Claimant) : State :=
  { engine .claiming .force none with
    ingress := { queue := [write2 62], waiting := some 0x8000 }
    hold := { (engine .claiming .force none).hold with arbiter := l } }

/-- A STOPPING drain with an end state and no tag outstanding. -/
def stopping (e : DrainEnd) : State :=
  { spill .stopping up with drain := { (spill .stopping up).drain with stopCause := some .session, endState := some e } }

/-! ### What `wellFormed` refuses -/

theorem test_wf_writeData : (Instr.writeReq 0 0 0 4 [1, 2, 3]).wellFormed = false := by decide
theorem test_wf_prereadData : (Instr.prereadResponse 0 .ok (List.replicate 63 0)).wellFormed = false := by decide
theorem test_wf_prereadFaultData : (Instr.prereadResponse 0 .fault [0]).wellFormed = false := by decide
theorem test_wf_checkData : (Instr.checkReadResponse .ok []).wellFormed = false := by decide
theorem test_wf_checkFaultData : (Instr.checkReadResponse .fault [0]).wellFormed = false := by decide
theorem test_wf_unknownCode : (Instr.unknownCommand 0x53 (frame [])).wellFormed = false := by decide
theorem test_wf_clearSession : (Instr.clearSession (frame [2])).wellFormed = false := by decide
theorem test_wf_clearWindows : (Instr.clearWindows (frame [1])).wellFormed = false := by decide
theorem test_wf_clearEvents : (Instr.clearEvents (frame [])).wellFormed = false := by decide
theorem test_wf_clearAll : (Instr.clearAll (frame [3])).wellFormed = false := by decide

/-! ### Frames of 10.6 and 11.1, written out -/

/-- R163: ten samples are the byte 0xA5, most significant bit first, and two bits left over. -/
theorem test_receive :
    (⟨[true, false, true, false, false, true, false, true, true, true]⟩ : Frame).args = [0xA5] ∧
    (⟨[true, false, true, false, false, true, false, true, true, true]⟩ : Frame).left = 2 := by decide

/-- R163: CS_N low at the release of RESET_N begins no frame when it falls, and no sample is taken, before it has risen. -/
theorem test_awaitRise :
    (({ Port.reset with awaitRise := true } : Port).fall.clock true) = { Port.reset with awaitRise := true } := by decide

theorem test_decode_ident : decodeFrame (samples [0x01]) = .ident (frame []) := by decide
theorem test_decode_clearAll : decodeFrame (samples [0x03, 0x04]) = .clearAll (frame [4]) := by decide
theorem test_decode_clearShort : decodeFrame (samples [0x03]) = .clearSession (frame []) := by decide
theorem test_decode_winEnable : decodeFrame (samples [0x12, 0x05]) = .winEnable (frame [5]) := by decide
theorem test_decode_seqFire : decodeFrame (samples [0x1B]) = .seqFire (frame []) := by decide
theorem test_decode_sessionStop : decodeFrame (samples [0x21] ++ [true]) = .sessionStop ⟨[true]⟩ := by decide
set_option maxRecDepth 8000 in
theorem test_decode_ringRead : decodeFrame (samples [0x29, 0, 0, 0, 7, 1]) = .ringRead (frame [0, 0, 0, 7, 1]) := by decide
theorem test_decode_drainRestart : decodeFrame (samples [0x33]) = .drainRestart (frame []) := by decide
theorem test_decode_rollbackAbort : decodeFrame (samples [0x39]) = .rollbackAbort (frame []) := by decide
theorem test_decode_holdRead : decodeFrame (samples [0x40, 7]) = .holdRead (frame [7]) := by decide
theorem test_decode_timeRead : decodeFrame (samples [0x48]) = .timeRead (frame []) := by decide
theorem test_decode_faultRead : decodeFrame (samples [0x53]) = .faultRead (frame []) := by decide
theorem test_decode_unknown : decodeFrame (samples [0x04, 1]) = .unknownCommand 4 (frame [1]) := by decide
theorem test_decode_empty : decodeFrame [true, false] = .emptyFrame 2 := by decide
theorem test_decodeTableWord : decodeTableWord 8 0x01 = none := by decide

/-! ### Single steps -/

/-- R141: an announcement above 32 is taken as 32. -/
theorem test_creditAnnouncement : (run (.creditAnnouncement 33) State.reset).mem.credit = 32 := by decide

/-- R136: the part offers 16 credits. -/
theorem test_hostCreditOffer : (run .hostCreditOffer State.reset).host.sent = [.creditOffer 16] := by decide

/-- R137, check 1: with no credit the request is discarded. -/
theorem test_readReq_noCredit :
    (run (.readReq 1 0 0 4) { up with host := { up.host with credit := 0 } }).ingress.queue = [] := by decide

/-- R137, check 2: a tag in use returns its credit bare. -/
theorem test_writeReq_tagInUse :
    (run (.writeReq 5 0 0 1 [9]) (arrived (write2 0) up)).host.sent = [.creditReturn] := by decide

/-- R138: bytes in two lines are malformed, whatever the engagement. -/
theorem test_classification_malformed :
    (run .classification (arrived (write2 63) up)).host.sent = [.response 5 .malformed []] := by decide

/-- R22, R23: a watched write takes entry 0, and its pre-read goes out with tag 64. -/
theorem test_classification_watched :
    (run .classification (arrived (write2 62) watching)).mem.sent = [preRead 0 0] := by decide

/-- R8, R29, R30: a guard ALWAYS refuses the write, which is not issued. -/
theorem test_preread_refused :
    (run (.prereadResponse 7 .ok (List.replicate 64 0))
      (reading { watching with windows := watching.windows.setIfInBounds 15 { zone with guard := .always } })).host.sent =
      [.response 5 .refused []] := by decide

/-- R28: a faulted pre-read leaves old data absent, and the write goes ahead. -/
theorem test_preread_fault : (run (.prereadResponse 7 .fault []) (reading watching)).mem.sent = [(write2 62).item] := by
  decide

/-- R147: a read answered OK returns its data with its tag. -/
theorem test_memoryResponse_read :
    (run (.memoryResponse 5 .ok [7, 8]) (awaiting { (write2 0).item with kind := .read, data := [] } none up)).host.sent =
      [.response 5 .ok [7, 8]] := by decide

/-- R148: a response whose tag is not outstanding raises STRAY_RESPONSE. -/
theorem test_strayResponse : (run (.strayResponse 200 .ok []) up).events.pending = 0x1000 := by decide

/-- R152: the counter wraps at 48 bits. -/
theorem test_tick_wraps :
    (run .tick { up with time := { up.time with counter := 0xFFFFFFFFFFFF } }).time.counter = 0 := by decide

/-- R92: the tick that reaches within restarts the sequence and raises STAGE_TIMEOUT. -/
theorem test_stageExpiry :
    (run .stageExpiry { up with seqr :=
      { up.seqr with state := .counting, count := 0, elapsed := 4, stages := Vector.replicate 8 { Stage.reset with within := 5 } } }
      ).events.pending = 0x20 := by decide

/-- R164, R165: a frame that is short holds SHORT, and MISO carried the outcome held before it. -/
theorem test_winGet_short :
    ((run (.winGet (frame [])) (answered .ok [1] up)).port.heldOutcome,
      (run (.winGet (frame [])) (answered .ok [1] up)).port.shifted.bytes) = (.short, [PortOutcome.ok.code]) := by decide

/-- 11.4: IDENT answers part code 0x5A17 and revision 1. -/
theorem test_ident : (run (.ident (frame [])) up).port.heldResult = [0x5A, 0x17, 0x01] := by decide

/-- R17: WIN_DISABLE of an enabled window. -/
theorem test_winDisable : ((run (.winDisable (frame [15])) watching).window 15).enabled = false := by decide

set_option maxRecDepth 8000 in
/-- R67: P and Q of 256 and 256 are out of range for a triggered session. -/
theorem test_sessionStart_badArg :
    (run (.sessionStart (frame [1, 1, 0, 1, 0, 0, 1, 0])) up).port.heldOutcome = .badArg := by decide

set_option maxRecDepth 8000 in
/-- R67, R68: 255 and 256 are in range, and the session is ARMED. -/
theorem test_sessionStart_armed :
    (run (.sessionStart (frame [1, 0, 255, 1, 0, 0, 1, 0])) up).session.state = .armed := by decide

/-- R95, R73: SEQ_FIRE with Q of 0 captures at once. -/
theorem test_seqFire : (run (.seqFire (frame [])) (inState .armed up)).session.state = .captured := by decide

/-- R77: SESSION_STOP in IDLE is BAD_STATE. -/
theorem test_sessionStop_idle : (run (.sessionStop (frame [])) up).port.heldOutcome = .badState := by decide

set_option maxRecDepth 8000 in
/-- R62: RING_RELEASE through 1 takes both records. -/
theorem test_ringRelease : (run (.ringRelease (frame [0, 0, 0, 1])) stoppedRing).ring.recs = [] := by decide

set_option maxRecDepth 8000 in
/-- R119: a watermark above the size is out of range. -/
theorem test_spillSet_badArg :
    (run (.spillSet (frame [0, 0, 0, 0, 0, 0, 0, 64, 0, 0, 65])) up).port.heldOutcome = .badArg := by decide

set_option maxRecDepth 8000 in
/-- R126: consuming past the wrap. -/
theorem test_spillConsume :
    (run (.spillConsume (frame [0, 0, 1])) { up with drain :=
      { (spill .ready up).drain with c := 63, u := 3, p := 2, q := 2 } }).drain.u = 1 := by decide

/-- R128, R129: a faulted line write with nothing else outstanding leaves the drain FAULTED. -/
theorem test_drainResponse_fault :
    (run (.drainResponse 0 .fault) (awaiting (lineWrite 73) (some 0) (spill .running up))).drain.state = .faulted := by decide

set_option maxRecDepth 8000 in
/-- R101, R108: a FORCE rollback of record 1 restores its old bytes. -/
theorem test_rollbackStart :
    (run (.rollbackStart (frame [0, 0, 0, 1, 0, 0, 0, 1, 0])) stoppedRing).mem.sent =
      [{ kind := .write, tag := 72, addr := 62, len := 2, data := [1, 2] }] := by decide

/-- R108, R103: the restore's OK ends a rollback of one record DONE. -/
theorem test_restoreResponse :
    (run (.restoreResponse .ok) (awaiting { lineWrite 72 with addr := 62, len := 2 } none
      { engine .restoring .force none with rollback := { (engine .restoring .force none).rollback with first := 1 } }
        )).rollback.result = .done := by decide

/-- R106: an unequal span under CHECK_STOP ends with CONFLICT. -/
theorem test_checkRead_conflict :
    (run (.checkReadResponse .ok (List.replicate 64 0)) (awaiting (checkRead 0) none
      ((engine .checking .checkStop none).setEntry 0 (.owned 0 .checking [])))).rollback.result = .conflict := by decide

/-- R110: ROLLBACK_ABORT in IDLE is BAD_STATE. -/
theorem test_rollbackAbort_idle : (run (.rollbackAbort (frame [])) up).port.heldOutcome = .badState := by decide

/-- R156: EVENT_ACK of one event leaves the others. -/
theorem test_eventAck :
    (run (.eventAck (frame [0, 1])) { up with events := { up.events with pending := 0x1001 } }).events.pending = 0x1000 := by
  decide

/-- R160: a second fault sets the more flag, the last byte of FAULT_READ. -/
theorem test_faultRead :
    (run (.faultRead (frame [])) (stray 200 (stray 201 up))).port.heldResult =
      [2, 1, 201, 0, 0, 0, 0, 0, 0, 0, 0, 0, 0, 0, 1] := by decide

/-- R25: an entry that becomes FREE goes to the claimant that has waited longest, here the ingress head. -/
theorem test_arbiter_oldest :
    (release 0 ({ arrived (write2 62) up with
        ingress := { queue := [write2 62], waiting := some 0x8000 }
        hold := { entries := Vector.replicate 8 (.owned 64 .checking [])
                  arbiter := [.head, .rollback { line := 128, mode := .checkSkip }] } })).hold.arbiter =
      [.rollback { line := 128, mode := .checkSkip }] := by decide

/-! ### States and operands that meet the statements' hypotheses -/

theorem witness_PinResetAndRelease :
    held.resetHeld = true ∧ up.resetHeld = false ∧ Instr.tick ≠ .pinReset ∧ ∀ b, Instr.tick ≠ .resetNRelease b := by
  refine ⟨rfl, rfl, by decide, fun b => by simp⟩

theorem witness_LinksStart :
    (State.reset.resetHeld = false ∧ State.reset.host.started = false) ∧ up.host.started = true ∧
    (State.reset.mem.credit = 0 ∧ 32 ≠ 0 ∧ 33 ≠ 0) ∧ up.mem.credit ≠ 0 := by decide

theorem witness_RequestArrival :
    up.resetHeld = false ∧ Instr.readReq 1 2 3 64 = .readReq 1 2 3 64 ∧
    Instr.writeReq 1 2 3 1 [9] = .writeReq 1 2 3 1 [9] ∧ ([9] : List Byte).length = 1 := by decide

/-- Length 0, length 65, and one byte over the line's end. -/
theorem witness_MalformedAnsweredAtHead :
    (∀ r ∈ [{ write2 0 with len := 0 }, { write2 0 with len := 65 }, write2 63],
      (arrived r up).resetHeld = false ∧ (arrived r up).ingress.queue = r :: [] ∧ (arrived r up).ingress.waiting = none) ∧
    ({ write2 0 with len := 0 } : HostReq).len = 0 ∧ 64 < ({ write2 0 with len := 65 } : HostReq).len ∧
    64 < (write2 63).addr.toNat % 64 + (write2 63).len := by decide

/-- No head and a waiting head; then a head whose bytes end with its line, with an owner, with no candidate, with a candidate
and an entry FREE, and with a candidate and none. -/
theorem witness_ClassificationOfHead :
    up.ingress.queue = [] ∧ ({ up.ingress with waiting := some 1 } : Ingress).waiting ≠ none ∧
    ((arrived (write2 62) up).resetHeld = false ∧ 1 ≤ (write2 62).len ∧ (write2 62).len ≤ 64 ∧
      (write2 62).addr.toNat % 64 + (write2 62).len ≤ 64) ∧
    ((arrived (write2 62) (up.setEntry 7 (.owned 0 .checking []))).entry 7 = .owned 0 .checking [] ∧
      lineOf (write2 62).addr = 0 ∧
      ∀ j < 7, (arrived (write2 62) (up.setEntry 7 (.owned 0 .checking []))).entry j = .free) ∧
    (∀ i < 8, ((arrived (write2 62) watching).entry i).line? ≠ some (lineOf (write2 62).addr)) ∧
    (arrived (write2 62) up).candidates (write2 62) = 0 ∧
    (arrived (write2 62) watching).candidates (write2 62) ≠ 0 ∧ (arrived (write2 62) watching).hold.arbiter = [] ∧
    (arrived (write2 62) watching).entry 0 = .free ∧
    ∀ i < 8, State.entry { arrived (write2 62) watching with
      hold := { entries := Vector.replicate 8 (.owned 64 .checking []), arbiter := [] } } i = .owned 64 .checking [] := by
  decide

/-- One range, two rows, and the last byte of the address space. -/
theorem witness_WindowRegion :
    Window.reset.inRange ∧ ({ Window.reset with pitch := 65, height := 2 } : Window).inRange ∧
    ({ Window.reset with base := 0xFFFFFFFFFF, pitch := 1, width := 1 } : Window).inRange := by
  refine ⟨?_, ?_, ?_⟩ <;> simp [Window.inRange, Window.reset, ElemSize.bytes]

theorem witness_CandidateSet : 15 < 16 ∧ (watching.candidates (write2 62)).getLsbD 15 = true := by decide

theorem witness_HitSetAndRefusal :
    15 < 16 ∧ (watching.hitSet (held2 62) (some (List.replicate 64 0))).getLsbD 15 = true ∧
    State.refuses { watching with windows := watching.windows.setIfInBounds 15 { zone with guard := .always } } 0x8000 =
      true := by decide

/-- The first and the last written byte, for each condition and the largest element. -/
theorem witness_ElementConditions :
    (∀ c, ({ zone with condition := c, element := .e8, mask := 0xFF, value := 0xFF } : Window).inRange) ∧
    (List.replicate 64 (0 : Byte)).length = 64 ∧ (write2 62).data.length = (write2 62).len ∧ 1 ≤ (write2 62).len ∧
    (write2 62).addr.toNat % 64 + (write2 62).len ≤ 64 ∧
    ((write2 62).addr.toNat ≤ 62 ∧ 63 < (write2 62).addr.toNat + (write2 62).len) := by
  refine ⟨fun c => ?_, by decide⟩
  simp [Window.inRange, zone, Window.reset, ElemSize.bytes]

theorem witness_PrereadResponseResolves :
    (reading watching).answering { req := preRead 7 0, item := none } (BitVec.ofNat 8 (64 + (7 : BitVec 3).toNat)) ∧
    (preRead 7 0).kind = .read ∧ (preRead 7 0).len = 64 ∧
    (reading watching).entry 7 = .owned 0 (.reading (held2 62)) [] ∧ (List.replicate 64 (0 : Byte)).length = 64 := by
  refine ⟨⟨?_, ?_⟩, ?_⟩ <;> decide

/-- Every session state, with a window hit that records; and one that does not, where the write does not count. -/
theorem witness_RefusedWriteAnswered :
    (∀ st ∈ [SessionState.idle, .running, .armed, .fired, .captured, .stopped],
      (inState st (guarding true)).session.state = st ∧
      (inState st (guarding true)).refuses ((inState st (guarding true)).hitSet (held2 62) none) = true ∧
      (inState st (guarding true)).recordSet ((inState st (guarding true)).hitSet (held2 62) none) ≠ 0 ∧
      (inState st (guarding true)).ring.slotList = [] ∧ (inState st (guarding true)).ring.nextSeq + 1 < 4294967295) ∧
    (guarding false).refuses 0x8000 = true ∧ (guarding false).hitSet (held2 62) none = 0x8000 ∧
    (guarding false).recordSet 0x8000 = 0 ∧ (guarding false).counts 0x8000 = false := by decide

theorem ringOf_length (n next gap : Nat) (s : State) : (ringOf n next gap s).ring.recs.length = n := by simp [ringOf]

set_option maxRecDepth 8000 in
/-- An empty hit set; every session state with a window hit that records, and one that does not; a quiet stage that the write
counts toward; both policies, with a slot and without; and a RUNNING session with one slot free and one number left before the
last. -/
theorem witness_WriteThatGoesAhead :
    up.hitSet (held2 62) none = 0 ∧
    (∀ st ∈ [SessionState.idle, .running, .armed, .fired, .captured, .stopped],
      (inState st watching).session.state = st ∧ (inState st watching).hitSet (held2 62) none = 0x8000 ∧
      (inState st watching).refuses 0x8000 = false ∧ (inState st watching).recordSet 0x8000 ≠ 0 ∧
      (inState st watching).counts 0x8000 = false) ∧
    State.recordSet { watching with windows := watching.windows.setIfInBounds 15 { zone with record := false } } 0x8000 = 0 ∧
    (hunting true).counts 0x8000 = true ∧ ((hunting true).stageAt (hunting true).seqr.stage).quiet = true ∧
    (hunting false).counts 0x8000 = true ∧ ((hunting false).stageAt (hunting false).seqr.stage).quiet = false ∧
    watching.ring.policy = .skip ∧ holding.ring.policy = .hold ∧ holding.engaged = true ∧
    (appendHold { time := 0, info := info2 } holding).2 = false ∧
    (appendHold { time := 0, info := info2 } (ringOf 511 0 1 holding)).2 = true ∧
    (let s := ringOf 511 4294967294 0 (inState .running watching)
     s.refuses (s.hitSet (held2 62) none) = false ∧ s.recordSet (s.hitSet (held2 62) none) ≠ 0 ∧
     s.session.state = .running ∧ s.ring.recs.length < 512 ∧ s.ring.gap = 0 ∧ s.ring.nextSeq < 4294967295) := by
  refine ⟨by decide, by decide, by decide, by decide, by decide, by decide, by decide, rfl, rfl, rfl, by decide, ?_,
    by decide, by decide, rfl, ?_, rfl, by decide⟩
  · unfold appendHold
    rw [if_neg (by simp only [Ring.free]; rw [ringOf_length]; decide), if_neg (by decide)]
    dsimp only
    rw [if_pos (by decide), if_pos (by simp only [Ring.free]; rw [ringOf_length])]
  · show (ringOf 511 4294967294 0 up).ring.recs.length < 512
    rw [ringOf_length]
    decide

/-- An entry that owns a line; a watched write; a claim in each mode with a record to restore; and an arbiter with no claimant,
with the head, with a claim, and with both in each order, for one line and for two. -/
theorem witness_ReleaseWalk :
    (reading watching).entry 7 = .owned 0 (.reading (held2 62)) [] ∧ 7 < 8 ∧ (0x8000 : Set16) ≠ 0 ∧
    ({ line := 0, mode := .checkSkip } : Claim).mode ≠ .force ∧ ({ line := 0, mode := .force } : Claim).mode = .force ∧
    (engine .claiming .force none).ring.find (engine .claiming .force none).rollback.cursor = some (undo 1) ∧
    (undo 1).body = .write info2 .ok false ∧ info2.oldData = some [1, 2] ∧ up.hold.arbiter = [] ∧ up.ingress.waiting = none ∧
    lineOf (write2 62).addr = 0 ∧
    ∀ l : List Claimant, (claimants l).hold.arbiter = l ∧ (claimants l).ingress.queue = write2 62 :: [] ∧
      (claimants l).ingress.waiting = some 0x8000 := by
  refine ⟨by decide, by decide, by decide, by decide, rfl, by decide, rfl, rfl, rfl, rfl, by decide, fun l => ⟨rfl, rfl, rfl⟩⟩

/-- The rows at their boundary counts, with two numbers left, one left, and at the last. -/
theorem witness_SkipRows :
    (∀ next ∈ [4294967293, 4294967294, 4294967295],
      (inState .running (ringOf 511 next 1 up)).session.state = .running ∧
      (ringOf 511 next 1 up).ring.recs.length = 511 ∧ (ringOf 510 next 1 up).ring.recs.length < 511 ∧
      (ringOf 511 next 0 up).ring.recs.length < 512 ∧ (ringOf 512 next 1 up).ring.recs.length = 512) ∧
    (ringOf 0 4294967293 0 up).ring.nextSeq + 1 < 4294967295 ∧ (ringOf 0 4294967294 0 up).ring.nextSeq + 1 = 4294967295 ∧
    (ringOf 0 4294967295 1 up).ring.nextSeq = 4294967295 ∧ 0 < (ringOf 0 4294967295 1 up).ring.gap := by
  refine ⟨fun next _ => ⟨rfl, ringOf_length .., ?_, ?_, ringOf_length ..⟩, by decide⟩ <;> rw [ringOf_length] <;> decide

/-- The HOLD rows have the same states as the SKIP rows; the answer's second part in each. -/
theorem witness_HoldRows :
    (∀ d, appendHold d (inState .running (ringOf 0 4294967295 0 up)) =
      (appendRec false (.write d.info .pending false) d.time (inState .running (ringOf 0 4294967295 0 up)), false)) ∧
    (inState .running (ringOf 511 4294967293 1 up)).session.state = .running ∧
    (ringOf 511 4294967293 1 (inState .running up)).ring.recs.length = 511 ∧
    0 < (inState .running (ringOf 511 4294967293 1 up)).ring.gap ∧
    (ringOf 512 0 0 (inState .running up)).ring.recs.length = 512 ∧
    (ringOf 510 4294967294 1 (inState .running up)).ring.recs.length < 511 ∧
    (ringOf 511 4294967295 1 (inState .running up)).ring.recs.length < 512 := by
  refine ⟨fun _ => rfl, rfl, ringOf_length .., by decide, ringOf_length .., ?_, ?_⟩ <;> rw [ringOf_length] <;> decide

/-- P of 0; P of 1 with the ring empty and with one record; Q reached. -/
theorem witness_TriggeredAppends :
    (ringOf 0 4294967294 0 up).ring.nextSeq < 4294967295 ∧ up.session.p = 0 ∧
    (ringOf 0 0 0 up).ring.recs.length < 1 ∧ 1 ≤ (ringOf 1 4294967294 0 up).ring.recs.length ∧
    up.session.q ≤ up.session.post + 1 := by decide

theorem witness_LastNumberStopsSession :
    (ringOf 2 4294967295 0 (spill .running up)).ring.nextSeq = 4294967295 ∧
    (ringOf 2 4294967295 0 (spill .running up)).drain.state = .running ∧
    (ringOf 2 4294967295 0 (spill .running up)).drainTags = [] ∧
    (ringOf 2 4294967295 0 (awaiting (lineWrite 76) (some 0) (spill .running up))).drainTags ≠ [] ∧
    (ringOf 2 4294967295 0 up).drain.state ≠ .running ∧
    (appendFired (.refused info2) 0 (inState .fired (ringOf 2 4294967295 0 up))).session.state = .stopped := by decide

theorem witness_FireTakenWhole :
    (ringOf 0 4294967294 0 up).ring.nextSeq ≠ 4294967295 ∧ (ringOf 0 4294967295 0 up).ring.nextSeq = 4294967295 ∧
    up.session.q = 0 ∧ ({ up.session with q := 511 } : Session).q ≠ 0 ∧ up.resetHeld = false ∧
    (inState .armed up).session.state = .armed ∧ up.session.state ≠ .armed ∧ (spill .running up).drain.state = .running ∧
    (spill .running up).drainTags = [] ∧ (awaiting (lineWrite 74) (some 0) (spill .running up)).drainTags ≠ [] ∧
    up.drain.state ≠ .running := by decide

/-- A stage with a window and one for ANY; then below the target; at it in a stage before the last; at it in the last. -/
theorem witness_CountTaken :
    (up.stageAt up.seqr.stage).window = some 0 ∧ ((hunting false).stageAt (hunting false).seqr.stage).window = none ∧
    (0 + 1 < (State.stageAt { up with seqr := { up.seqr with stages := Vector.replicate 8 { Stage.reset with target := 2 } } } 0).target) ∧
    ((up.stageAt 0).target ≤ up.seqr.count + 1 ∧ up.seqr.stage + 1 < ({ up.seqr with length := 2 } : Sequencer).length) ∧
    up.seqr.length ≤ up.seqr.stage + 1 := by decide

/-- No limit; a limit of 2 not yet reached, and reached. A period that is not the tick's last, and one that is. -/
theorem witness_TicksAndPeriods :
    up.resetHeld = false ∧ Instr.tick = .tick ∧ (up.stageAt 0).within = 0 ∧
    (∀ e ∈ [0, 1],
      let s := { up with seqr := { up.seqr with
        state := .counting, elapsed := e, stages := Vector.replicate 8 { Stage.reset with within := 2 } } }
      s.seqr.state = .counting ∧ (s.stageAt s.seqr.stage).within ≠ 0 ∧
      (s.seqr.elapsed + 1 < (s.stageAt s.seqr.stage).within ∨ (s.stageAt s.seqr.stage).within ≤ s.seqr.elapsed + 1)) ∧
    up.pending = [] ∧ held.pending = [] ∧ held.resetHeld = true ∧
    up.time.tickPrescale.toNat ≤ up.time.periods ∧ 0 < ({ up.time with tickPrescale := 1 } : TimeBase).tickPrescale.toNat := by
  decide

/-- A read with as many bytes as asked for, and a write with a pair in the outcome map. -/
theorem witness_HostRequestAnswered :
    (awaiting { (write2 0).item with kind := .read } none up).answering
      { req := { (write2 0).item with kind := .read }, item := none } ((5 : HostTag).setWidth 8) ∧
    ([7, 8] : List Byte).length = (write2 0).item.len ∧
    (awaiting (write2 0).item none up).answering { req := (write2 0).item, item := none } ((5 : HostTag).setWidth 8) ∧
    ([((5 : HostTag), 1)] : List (HostTag × Nat)).find? (fun x => x.1 == (5 : HostTag)) = some (5, 1) := by
  refine ⟨⟨?_, ?_⟩, ?_, ⟨?_, ?_⟩, ?_⟩ <;> decide

theorem witness_StrayResponseDropped :
    up.resetHeld = false ∧ (∀ o ∈ up.mem.outstanding, o.req.tag ≠ 72) ∧
    Instr.strayResponse 255 .ok [] = .strayResponse 255 .ok [] ∧ (5 : HostTag).setWidth 8 = (5 : MemTag) ∧
    BitVec.ofNat 8 (64 + (7 : BitVec 3).toNat) = (71 : MemTag) ∧ BitVec.ofNat 8 (73 + (3 : BitVec 2).toNat) = (76 : MemTag) := by
  decide

/-- CHECKING under each mode with an equal and an unequal span, and ABORTING with each pending result; an entry in CHECKING, and a
record to restore. -/
theorem witness_CheckReadAnswered :
    (∀ st ∈ [RbState.checking, .aborting], ∀ m ∈ [RbMode.checkSkip, .checkStop], ∀ p ∈ [none, some RbPending.cleared],
      (awaiting (checkRead 0) none (engine st m p)).answering { req := checkRead 0, item := none } 72 ∧
      (awaiting (checkRead 0) none (engine st m p)).rollback.state = st ∧
      (awaiting (checkRead 0) none (engine st m p)).rollback.mode = m ∧
      (awaiting (checkRead 0) none (engine st m p)).rollback.pendingResult = p ∧
      (awaiting (checkRead 0) none (engine st m p)).ring.find 1 = some (undo 1)) ∧
    ((up.setEntry 7 (.owned 0 .checking [])).entry 7 = .owned 0 .checking [] ∧
      ∀ j < 7, ((up.setEntry 7 (.owned 0 .checking [])).entry j).isChecking = false) ∧
    (undo 1).body = .write info2 .ok false ∧ info2.oldData = some [1, 2] ∧
    ((List.replicate 62 0 ++ [0xAA, 0xBB]).drop (info2.addr.toNat % 64)).take info2.len = info2.newData ∧
    ((List.replicate 64 0).drop (info2.addr.toNat % 64)).take info2.len ≠ info2.newData := by
  simp only [State.answering]
  decide

theorem witness_RestoreAnswered :
    ∀ st ∈ [RbState.restoring, .aborting], ∀ p ∈ [none, some RbPending.aborted],
      (awaiting (lineWrite 72) none (engine st .force p)).answering { req := lineWrite 72, item := none } 72 ∧
      (awaiting (lineWrite 72) none (engine st .force p)).rollback.state = st ∧
      (awaiting (lineWrite 72) none (engine st .force p)).rollback.pendingResult = p := by
  simp only [State.answering]
  decide

/-- A tag outstanding in RUNNING and after a clear; and none, in STOPPING with each end state, in FAULTING, and in another state. -/
theorem witness_DrainLineAnswered :
    (awaiting (lineWrite 76) (some 0) (spill .running up)).answering { req := lineWrite 76, item := some 0 }
      (BitVec.ofNat 8 (73 + (3 : BitVec 2).toNat)) ∧
    (lineWrite 76).kind = .write ∧ (spill .running up).drain.stopCause ≠ some .clear ∧
    ({ (spill .stopping up).drain with stopCause := some .clear } : Drain).stopCause = some .clear ∧
    (awaiting (lineWrite 76) (some 0) (spill .running up)).drainTags ≠ [] ∧
    (∀ e ∈ [DrainEnd.off, .ready], (stopping e).drainTags = [] ∧ (stopping e).drain.state = .stopping ∧
      (stopping e).drain.endState = some e) ∧
    (spill .faulting up).drainTags = [] ∧ (spill .faulting up).drain.state = .faulting ∧
    (spill .ready up).drain.state ≠ .stopping ∧ (spill .ready up).drain.state ≠ .faulting := by
  simp only [State.answering]
  decide

/-- A complete PAD raises u to the watermark, and to one below it. -/
theorem witness_RetirementFromFront_watermark :
    (∀ mark ∈ [2, 3],
      let s : State := { spill .running up with drain := { (spill .running up).drain with
        watermark := mark, inFlight := [⟨62, 2, none, [], 1, 1, false⟩], p := 62 } }
      s.drain.u < (retire s.drain.inFlight s).drain.u ∧
      ((retire s.drain.inFlight s).drain.watermark ≤ (retire s.drain.inFlight s).drain.u ↔ mark = 2)) ∧
    (retire up.drain.inFlight up).drain.u ≤ up.drain.u := by decide

/-- A complete record and a complete PAD of two lines at the end of the area, then a record with a line to come. -/
theorem witness_RetirementFromFront :
    let whole : List DrainItem := [⟨61, 1, some 0, [], 1, 1, false⟩, ⟨62, 2, none, [], 1, 1, false⟩]
    let rest : List DrainItem := [⟨0, 2, some 1, [], 2, 1, false⟩]
    (∀ it ∈ whole, it.faulted = false ∧ (if it.seq = none then 1 else it.lines) ≤ it.okCount) ∧
    (∀ it, rest.head? = some it → it.faulted = true ∨ it.okCount < (if it.seq = none then 1 else it.lines)) ∧
    ({ (spill .running up).drain with inFlight := whole ++ rest, p := 61 } : Drain).inFlight = whole ++ rest ∧
    ({ (spill .running up).drain with inFlight := whole ++ rest, p := 61 } : Drain).p < (spill .running up).drain.size := by
  refine ⟨by decide, ?_, rfl, by decide⟩
  intro it h
  simp only [List.head?_cons, Option.some.injEq] at h
  subst h
  exact .inr (by decide)

/-- One ready item, alone and against an offered line, after a grant to each; with a credit free and with none. -/
theorem witness_SettleIssuesInOrder :
    (∀ m ∈ [(write2 0).item], isDrainTag m.tag = false) ∧
    up.mem.queue = [] ∧ (enqueue (write2 0).item up).mem.queue = (write2 0).item :: [] ∧ up.drain.offered = none ∧
    ({ up.drain with offered := some ⟨0, 0, []⟩ } : Drain).offered ≠ none ∧ up.mem.lastGrant = .drain ∧
    ({ up.mem with lastGrant := .path } : MemLink).lastGrant = .path ∧
    up.mem.outstanding.length < up.mem.credit ∧ State.reset.mem.credit ≤ State.reset.mem.outstanding.length ∧
    (offerNext up).grantee = none ∧ (offerNext (enqueue (write2 0).item up)).grantee = some .path ∧
    (offerNext (enqueue (write2 0).item up)).mem.queue = (write2 0).item :: [] ∧
    (offerNext { up with drain := { up.drain with offered := some ⟨0, 0, []⟩ } }).grantee = some .drain := by decide

/-- Records of one line at the last line of the area and of three lines two before its end, with room and without; a drain with
an item not fully issued, with all issued and a record to place, and with none; an offered line with tags 73 and 74 taken; and a
record with its old data and one without. -/
theorem witness_SpillLines :
    (let d : Drain := { (spill .running up).drain with q := 63 }
     (undo 1).lineCount = 1 ∧ (undo 1).lineCount ≤ d.size - d.q ∧ (undo 1).lineCount ≤ d.size - d.u - (d.inFlight.map DrainItem.lines).sum ∧
     d.size - ({ d with u := 64 } : Drain).u - (d.inFlight.map DrainItem.lines).sum < 1) ∧
    (let d : Drain := { (spill .running up).drain with q := 62 }
     let r : Rec := ⟨0, 0, .refused { info2 with len := 49 }⟩
     d.size - d.q < r.lineCount ∧ d.size - d.q + r.lineCount ≤ d.size - d.u - (d.inFlight.map DrainItem.lines).sum) ∧
    ((spill .ready up).drain.state ≠ .running ∧ (spill .running up).drain.state = .running ∧
      (spill .running up).drain.offered = none ∧ (spill .running up).drainTags.length < 4) ∧
    (let it : DrainItem := ⟨0, 2, some 1, [], 1, 0, false⟩
     [it] = [] ++ it :: [] ∧ it.issued < (if it.seq = none then 1 else it.lines) ∧
     (∀ x ∈ [({ it with issued := 2 } : DrainItem)], (if x.seq = none then 1 else x.lines) ≤ x.issued) ∧
     [({ it with issued := 2 } : DrainItem)].getLast? = some { it with issued := 2 } ∧ it.seq ≠ none) ∧
    ((undo 1).isPending = false ∧ Rec.isPending ⟨1, 0, .write info2 .pending false⟩ = true) ∧
    (let s := { awaiting (lineWrite 73) (some 0) (spill .running up) with drain :=
       { (spill .running up).drain with offered := some ⟨0, 0, []⟩ } }
     s.drain.offered = some ⟨0, 0, []⟩ ∧ isDrainTag 74 = true ∧ 74 ∉ s.drainTags ∧ 73 ∈ s.drainTags) ∧
    (1 ≤ info2.len ∧ info2.len ≤ 64 ∧ info2.newData.length = info2.len ∧ ([1, 2] : List Byte).length = info2.len) ∧
    (leBytes 6 0 = List.replicate 6 0 ∧ beBytes 6 0 = List.replicate 6 0) ∧ 5 < 6 := by decide

theorem witness_FramesThatExecuteNothing :
    up.resetHeld = false ∧ (0x10 : Byte) ∈ assignedCodes ∧ (frame (List.replicate 37 0)).args.length < argCount 0x10 := by
  simp only [frame_args]
  decide

/-- A frame with seven bits after its last byte. -/
theorem witness_MisoCarriesHeldAnswer : (⟨List.replicate 7 true⟩ : Frame).left = 7 := by decide

theorem witness_StateReads : up.resetHeld = false := rfl

theorem witness_IndexedReads :
    (up.resetHeld = false ∧ 1 ≤ (frame [16]).args.length ∧ argField (frame [16]).args 0 1 = 16) ∧
    (argField (frame [7]).args 0 1 ≤ 7 ∧ up.entry 7 = .free) ∧
    (reading up).entry 7 = .owned 0 (.reading (held2 62)) [] ∧ 7 < argField (frame [8]).args 0 1 ∧
    5 ≤ (frame [0, 0, 0, 1, 2]).args.length := by
  simp only [frame_args]
  decide

theorem witness_ClearWindowsAndEvents :
    up.resetHeld = false ∧ (frame [2]).args.head? = some 2 ∧ (frame [3]).args.head? = some 3 ∧
    (frame [0]).args.head? = some 0 ∧ (0 : Byte) ∉ ([1, 2, 3, 4] : List Byte) ∧ (5 : Byte) ∉ ([1, 2, 3, 4] : List Byte) := by
  simp only [frame_args]
  decide

/-- Each state of the engine, and each of the drain with and without a tag outstanding. -/
theorem witness_ClearSession :
    up.resetHeld = false ∧ (frame [1]).args.head? = some 1 ∧
    (∀ st ∈ [RbState.idle, .claiming, .checking, .restoring, .aborting],
      (engine st .force none).ring.slotList = [] ∧
      (releaseSlots false (engine st .force none).ring.slotList (framed (frame [1]) (engine st .force none))).rollback.state = st ∧
      (∀ i < 8, ((engine st .force none).entry i).claimCount = 0) ∧ (engine st .force none).hold.arbiter = []) ∧
    (∀ st ∈ [DrainState.off, .ready, .faulted, .running, .faulting, .stopping],
      (spill st up).drain.state = st ∧ (spill st up).drain.offered = none ∧ (spill st up).drainTags = [] ∧
      (awaiting (lineWrite 73) (some 0) (spill st up)).drainTags ≠ []) ∧
    (∀ c ∈ [StopCause.session, .clear],
      ({ (spill .stopping up).drain with stopCause := some c, endState := some .off } : Drain).stopCause = some c) ∧
    State.reset.mem.credit ≤ State.reset.mem.outstanding.length := by
  simp only [frame_args]
  decide

theorem witness_ClearAll :
    up.resetHeld = false ∧ (frame [4]).args.head? = some 4 ∧
    (∀ st ∈ [RbState.idle, .claiming, .checking, .restoring, .aborting],
      (engine st .force none).ring.slotList = [] ∧
      (releaseSlots false (engine st .force none).ring.slotList
        { framed (frame [4]) (engine st .force none) with windows := State.reset.windows, engaged := false }).rollback.state = st) ∧
    up.drainTags = [] ∧ (awaiting (lineWrite 73) (some 0) up).drainTags ≠ [] := by
  simp only [frame_args]
  decide

/-- In BYPASS; ENGAGED with no slot wait and with one, the gap counter at its largest. -/
theorem witness_EngageAndBypass :
    up.resetHeld = false ∧ up.engaged = false ∧ watching.engaged = true ∧ watching.ring.slotList = [] ∧
    (ringOf 0 0 4294967295 watching).ring.gap ≤ 4294967295 ∧ (slotWaiting 512 0).engaged = true ∧
    (slotWaiting 512 0).ring.slotList = [7] ∧
    (slotWaiting 512 0).entry 7 = .owned 0 (.slotWait (held2 62) none { time := 0, info := info2 }) [] := by decide

/-- The arguments of a WIN_SET for window 15: base, pitch, width and height, and the four codes and two words. -/
def winArgs (i base pitch width height cond elem rec guard : Nat) : Frame :=
  frame (beBytes 1 i ++ beBytes 5 base ++ beBytes 4 pitch ++ beBytes 4 width ++ beBytes 2 height ++ beBytes 2 8 ++
    beBytes 1 cond ++ beBytes 1 elem ++ beBytes 8 255 ++ beBytes 8 256 ++ beBytes 1 rec ++ beBytes 1 guard)

/-- Index 16; an enabled window; a pitch one too large; and a window that ends with the address space. -/
theorem witness_WindowProgramming :
    (up.resetHeld = false ∧ 38 ≤ (winArgs 16 0 1 1 1 0 1 0 0).args.length ∧ 15 < argField (winArgs 16 0 1 1 1 0 1 0 0).args 0 1) ∧
    (argField (winArgs 15 0 1 1 1 0 1 0 0).args 0 1 ≤ 15 ∧ (watching.window 15).enabled = true ∧ (up.window 15).enabled = false) ∧
    16777216 < argField (winArgs 15 0 16777217 1 1 0 1 0 0).args 6 4 ∧
    (let f := winArgs 15 0xFFFFFFFFFE 2 1 1 2 8 1 2
     argField f.args 1 5 + (argField f.args 14 2 - 1) * argField f.args 6 4 + argField f.args 10 4 - 1 < 2 ^ 40 ∧
     argField f.args 10 4 ≤ argField f.args 6 4 ∧ 1 ≤ argField f.args 10 4 ∧ 1 ≤ argField f.args 14 2 ∧ argField f.args 14 2 ≤ 65535 ∧
     argField f.args 6 4 ≤ 16777216 ∧ argField f.args 18 1 = Condition.code .changes ∧ argField f.args 19 1 = ElemSize.bytes .e8 ∧
     argField f.args 36 1 = (if true then 1 else 0) ∧ argField f.args 37 1 = Guard.code .afterFire) := by
  simp only [winArgs, frame_args]
  decide

/-- N of 0, 8 and 9; index 8; a session that is not IDLE; window codes 15, 16, 254 and 255; target 0; quiet 2. -/
theorem witness_SequenceProgramming :
    (up.resetHeld = false ∧ argField (frame [0]).args 0 1 = 0 ∧ argField (frame [8]).args 0 1 = 8 ∧ 8 < argField (frame [9]).args 0 1) ∧
    up.session.state = .idle ∧ (inState .stopped up).session.state ≠ .idle ∧
    (let f := fun i w t q => frame [i, w, 0, t, 0, 0, 0, 0, q]
     9 ≤ (f 7 15 1 1).args.length ∧ argField (f 7 15 1 1).args 0 1 ≤ 7 ∧ 7 < argField (f 8 15 1 1).args 0 1 ∧
     argField (f 7 15 1 1).args 1 1 ≤ 15 ∧ argField (f 7 255 1 0).args 1 1 = 255 ∧ argField (f 7 15 1 1).args 2 2 ≠ 0 ∧
     argField (f 7 15 1 1).args 8 1 ≤ 1 ∧ 15 < argField (f 7 16 1 1).args 1 1 ∧ argField (f 7 254 1 1).args 1 1 ≠ 255 ∧
     argField (f 7 0 0 0).args 2 2 = 0 ∧ 1 < argField (f 7 0 1 2).args 8 1) := by
  simp only [frame_args]
  decide

/-- P plus Q of 512 and of 511 in a TRIGGERED session, the threshold at 512; both kinds; each reason to refuse. -/
theorem witness_SessionStart :
    (let f := fun k q t => frame [k, 1, 0, 0, q, 1, t, 0]
     8 ≤ (f 1 255 1).args.length ∧ argField (f 1 255 1).args 0 1 = 1 ∧ argField (f 1 255 1).args 1 2 + argField (f 1 255 1).args 3 2 ≤ 511 ∧
     511 < argField (frame [1, 1, 0, 1, 0, 0, 1, 0]).args 1 2 + argField (frame [1, 1, 0, 1, 0, 0, 1, 0]).args 3 2 ∧
     argField (f 0 255 2).args 0 1 = 0 ∧ argField (f 0 255 2).args 6 2 ≤ 512 ∧ argField (f 0 255 0).args 6 2 = 0) ∧
    up.session.state = .idle ∧ stoppedRing.session.state ≠ .idle ∧ (engine .aborting .force none).rollback.state = .aborting ∧
    up.rollback.state ≠ .aborting ∧ up.drain.state ≠ .stopping ∧ up.drain.state ≠ .faulting ∧
    (spill .stopping up).drain.state = .stopping ∧ (spill .faulting up).drain.state = .faulting := by
  simp only [frame_args]
  decide

theorem witness_SessionStop :
    (∀ st ∈ [SessionState.idle, .captured, .stopped, .running, .armed, .fired], (inState st up).session.state = st) ∧
    (∀ st ∈ [SessionState.running, .armed, .fired],
      (inState st (spill .running up)).drain.state = .running ∧ (inState st (spill .running up)).drainTags = [] ∧
      (inState st (awaiting (lineWrite 74) (some 0) (spill .running up))).drainTags ≠ [] ∧
      (inState st (spill .ready up)).drain.state ≠ .running ∧ (inState st (spill .ready up)).drain.offered = none) ∧
    State.reset.mem.credit ≤ State.reset.mem.outstanding.length := by decide

theorem witness_RingRelease :
    (4 ≤ (frame [0, 0, 0, 1]).args.length ∧ argField (frame [0, 0, 0, 1]).args 0 4 = 1 ∧ stoppedRing.resetHeld = false) ∧
    (∀ r ∈ stoppedRing.ring.recs, r.seq ≠ 2) ∧ (∃ r ∈ stoppedRing.ring.recs, r.seq = 1) ∧ stoppedRing.ring.numbered ∧
    (∀ r ∈ stoppedRing.ring.recs, r.seq ≤ 1 → r.isPending = false) ∧ stoppedRing.rollback.state = .idle ∧
    stoppedRing.drain.state = .off ∧ (engine .claiming .force none).rollback.state ≠ .idle ∧
    Rec.isPending ⟨1, 0, .write info2 .pending false⟩ = true := by
  simp only [frame_args, Ring.numbered]
  decide

/-- A member of the arbiter's list with a slot free and with none; with one slot and a gap, and with two; and with the last number. -/
theorem witness_RingRelease_slots :
    (∀ gap ∈ [0, 1], (slotWaiting 511 gap).session.state = .running ∧ (slotWaiting 511 gap).ring.slotList = 7 :: [] ∧
      (slotWaiting 511 gap).entry 7 = .owned 0 (.slotWait (held2 62) none { time := 0, info := info2 }) [] ∧
      (slotWaiting 511 gap).ring.gap = gap ∧ (slotWaiting 511 gap).ring.nextSeq + 1 < 4294967295) ∧
    (slotWaiting 511 1).ring.recs.length = 511 ∧ (slotWaiting 510 1).ring.recs.length < 511 ∧
    (slotWaiting 511 0).ring.recs.length < 512 ∧ 512 ≤ (slotWaiting 512 0).ring.recs.length ∧
    up.ring.slotList = [] ∧ up.session.state ≠ .running ∧ (slotWaiting 511 0 4294967295).ring.recs.length < 512 ∧
    (slotWaiting 510 1 4294967294).ring.recs.length < 511 ∧ (slotWaiting 511 1 4294967295).ring.recs.length < 512 ∧
    (∀ next ∈ [4294967294, 4294967295], (slotWaiting 0 1 next).ring.nextSeq = next ∧ 0 < (slotWaiting 0 1 next).ring.gap ∧
      (slotWaiting 0 1 next).session.state = .running ∧ (slotWaiting 0 1 next).ring.slotList = 7 :: []) := by
  have h : ∀ n gap next, (slotWaiting n gap next).ring.recs.length = n :=
    fun n gap next => by simp [slotWaiting, ringOf, State.setEntry]
  refine ⟨by decide, h .., ?_, ?_, ?_, rfl, by decide, ?_, ?_, ?_, by decide⟩ <;> rw [h] <;> decide

/-- Size 63, 64 and 0; a newc at the size, and distances up to u and beyond it over the wrap; and every drain state. -/
theorem witness_DrainCommands :
    (let f := fun size mark => frame [0, 0, 0, 0, 64, 0, 0, size, 0, 0, mark]
     11 ≤ (f 64 64).args.length ∧ up.resetHeld = false ∧ (argField (f 63 1).args 5 3 ≠ 0 ∧ argField (f 63 1).args 5 3 < 64) ∧
     (64 ≤ argField (f 64 64).args 5 3 ∧ argField (f 64 64).args 5 3 ≤ 262144 ∧ argField (f 64 64).args 0 5 % 64 = 0 ∧
       1 ≤ argField (f 64 64).args 8 3 ∧ argField (f 64 64).args 8 3 ≤ argField (f 64 64).args 5 3 ∧
       argField (f 64 64).args 0 5 + 64 * argField (f 64 64).args 5 3 - 1 < 2 ^ 40) ∧ argField (f 0 0).args 5 3 = 0) ∧
    (∀ st ∈ [DrainState.off, .ready, .running, .stopping, .faulting, .faulted], (spill st up).drain.state = st) ∧
    (let d : Drain := { (spill .ready up).drain with c := 63, u := 3, p := 2, q := 2 }
     d.size ≤ argField (frame [0, 0, 64]).args 0 3 ∧ argField (frame [0, 0, 2]).args 0 3 < d.size ∧ d.c < d.size ∧
     (d.c + 3) % d.size = argField (frame [0, 0, 2]).args 0 3 ∧ 3 ≤ d.u ∧
     (d.c + 4) % d.size = argField (frame [0, 0, 3]).args 0 3 ∧ d.u < 4) := by
  simp only [frame_args]
  decide

/-- Mode 3 and an inverted run; each mode; and each reason to refuse in turn. -/
theorem witness_RollbackStart :
    (let f := fun a b m => frame [0, 0, 0, a, 0, 0, 0, b, m]
     9 ≤ (f 0 1 0).args.length ∧ 2 < argField (f 0 1 3).args 8 1 ∧ argField (f 1 0 0).args 4 4 < argField (f 1 0 0).args 0 4 ∧
     argField (f 1 1 0).args 0 4 ≤ argField (f 1 1 0).args 4 4 ∧ argField (f 1 1 0).args 8 1 = 0 ∧ argField (f 1 1 1).args 8 1 = 1 ∧
     argField (f 1 1 2).args 8 1 = 2) ∧
    up.session.state ≠ .stopped ∧ up.session.state ≠ .captured ∧ stoppedRing.session.state = .stopped ∧
    (engine .checking .force none).rollback.state ≠ .idle ∧ stoppedRing.rollback.state = .idle ∧
    stoppedRing.drain.state ≠ .stopping ∧ stoppedRing.drain.state ≠ .faulting ∧ (∀ r ∈ stoppedRing.ring.recs, r.seq ≠ 2) ∧
    (∃ r ∈ stoppedRing.ring.recs, r.seq = 1) := by
  simp only [frame_args]
  decide

/-- From record 1 at once, and past the GAP record 0 to the end of the run; a cursor at first and one above it. -/
theorem witness_VisitsSkipToUndoable :
    1 ≤ (engine .idle .force none).rollback.cursor ∧
    ((engine .idle .force none).ring.find 1).bind Rec.undoable = some info2 ∧
    ((undo 1).body = .write info2 .ok false ∧ info2.oldData = some [1, 2]) ∧
    up.rollback.cursor = up.rollback.first ∧
    (engine .idle .force none).rollback.first < (engine .idle .force none).rollback.cursor ∧
    (∀ k ≤ 0, ((engine .idle .force none).ring.find (0 - k)).bind Rec.undoable = none) := by
  refine ⟨by decide, by decide, by decide, rfl, by decide, fun k hk => ?_⟩
  obtain rfl : k = 0 := by omega
  decide

/-- Entry 7 owns the line; no entry does, and none or all are FREE; the record at the cursor can be undone. -/
theorem witness_ClaimOfLine :
    ((up.setEntry 7 (.owned 0 .checking [])).entry 7 = .owned 0 .checking [] ∧
      ∀ j < 7, ((up.setEntry 7 (.owned 0 .checking [])).entry j).line? ≠ some 0) ∧
    (∀ j < 8, (up.entry j).line? ≠ some 0) ∧ up.entry 0 = .free ∧
    (∀ i < 8, State.entry { up with hold := { entries := Vector.replicate 8 (.owned 64 .checking []), arbiter := [] } } i ≠ .free) ∧
    (engine .idle .force none).rollback.mode = .force ∧ (engine .idle .checkStop none).rollback.mode ≠ .force ∧
    (engine .idle .force none).ring.find (engine .idle .force none).rollback.cursor = some (undo 1) ∧
    (undo 1).body = .write info2 .ok false ∧ info2.oldData = some [1, 2] := by decide

theorem witness_RollbackAbort :
    (∀ st ∈ [RbState.idle, .claiming, .checking, .restoring, .aborting],
      (engine st .checkSkip none).rollback.state = st ∧ (engine st .checkSkip none).resetHeld = false) ∧
    ((engine .checking .checkSkip none).setEntry 7 (.owned 0 .checking [])).entry 7 = .owned 0 .checking [] ∧
    ∀ j < 7, (((engine .checking .checkSkip none).setEntry 7 (.owned 0 .checking [])).entry j).isChecking = false := by decide

theorem witness_TimeAndEventCommands : up.resetHeld = false ∧ 2 ≤ (frame [255, 255]).args.length := by
  simp only [frame_args]
  decide

theorem witness_FaultRead :
    up.resetHeld = false ∧ up.events.fault = none ∧
    (stray 255 up).events.fault =
      some { kind := .strayResponse, port := .memory, tag := 255, addr := none, time := 0, more := false } := by decide

theorem witness_FrameDecodesToItsCommand :
    (Instr.clearAll (frame [4])).wellFormed = true ∧ encodeFrame (.clearAll (frame [4])) = some (samples [3, 4]) ∧
    (Instr.unknownCommand 0x04 (frame [])).wellFormed = true ∧
    encodeFrame (.unknownCommand 0x04 (frame [])) = some (samples [4]) ∧ encodeFrame (.emptyFrame 7) = some (List.replicate 7 false) ∧
    0 < (frame [4]).args.length ∧ 7 < 8 ∧ up.port.inFrame = false ∧ ({ up.port with awaitRise := true } : Port).awaitRise = true := by
  decide

/-! ### States that keep the laws, with a command waiting -/

/-- The state with one command in its queue. -/
def waiting (c : Instr) (s : State) : State := { s with pending := [c] }

theorem witness_HostCreditLawKept :
    (waiting .classification (arrived (write2 62) watching)).HostLaw ∧
    ∃ t, step (waiting .classification (arrived (write2 62) watching)) = .next t := by
  refine ⟨?_, _, rfl⟩
  simp only [State.HostLaw]
  decide

theorem witness_MemoryCreditLawsKept :
    (waiting (.prereadResponse 7 .fault []) (reading watching)).CreditLaw ∧
    (waiting (.prereadResponse 7 .fault []) (reading watching)).GrantLaw ∧
    ∃ t, step (waiting (.prereadResponse 7 .fault []) (reading watching)) = .next t := by
  refine ⟨?_, ?_, _, rfl⟩
  · simp only [State.CreditLaw]
    decide
  · simp only [State.GrantLaw]
    decide

theorem entry_reading (s : State) (i : Nat) (h : i ≠ 7) : (reading s).entry i = s.entry i := by
  simp [State.entry, reading, State.setEntry, Ne.symm h]

theorem witness_OneOwnerPerLine :
    (waiting (.prereadResponse 7 .fault []) (reading watching)).LineLaw ∧
    ∃ t, step (waiting (.prereadResponse 7 .fault []) (reading watching)) = .next t := by
  refine ⟨⟨by decide, fun i => ?_, by decide, by decide, by decide, ?_, ?_, by decide⟩, _, rfl⟩
  · show ((reading watching).entry i).onOneLine
    by_cases h : i = 7
    · subst h
      simp only [show (reading watching).entry 7 = .owned 0 (.reading (held2 62)) [] by decide, HoldEntry.onOneLine]
      exact ⟨by decide, by simp⟩
    · rw [entry_reading _ _ h]
      by_cases h8 : i < 8
      · have : ∀ j < 8, watching.entry j = .free := by decide
        rw [this i h8]
        trivial
      · have : watching.entry i = .free := by
          rw [State.entry, Vector.getElem?_eq_none (by omega)]
          rfl
        rw [this]
        trivial
  · intro w h
    simp [State.waitingHead, waiting, reading, watching, up, State.reset, State.setEntry] at h
  · intro c h
    simp [waiting, reading, watching, up, State.reset, State.setEntry] at h

theorem witness_RingLawKept :
    (waiting (.ringRelease (frame [0, 0, 0, 0])) stoppedRing).RingLaw ∧
    ∃ t, step (waiting (.ringRelease (frame [0, 0, 0, 0])) stoppedRing) = .next t := by
  refine ⟨?_, _, rfl⟩
  simp only [State.RingLaw, Ring.numbered]
  decide

/-- An ARMED triggered session, its sequencer COUNTING. -/
def counting : State :=
  { up with
    session := { up.session with state := .armed, kind := some .triggered, p := 255, q := 256 }
    seqr := { up.seqr with state := .counting } }

theorem stageAt_reset (i : Nat) : counting.stageAt i = Stage.reset := by
  unfold State.stageAt
  by_cases h : i < 8
  · simp [counting, up, State.reset, Sequencer.reset, h]
  · rw [Vector.getElem?_eq_none (by omega)]
    rfl

theorem witness_SessionLawKept :
    (waiting (.seqFire (frame [])) counting).SessionLaw ∧
    ∃ t, step (waiting (.seqFire (frame [])) counting) = .next t := by
  refine ⟨⟨by decide, by decide, by decide, by decide, by decide, by decide, by decide, by decide, by decide, fun i => ?_,
    by decide, by decide, by decide, by decide, by decide⟩, _, rfl⟩
  show 1 ≤ (counting.stageAt i).target ∧ (counting.stageAt i).target ≤ 65535 ∧ (counting.stageAt i).within ≤ 4294967295
  rw [stageAt_reset]
  decide

theorem witness_SpillLawKept :
    (waiting .tick { spill .ready up with drain := { (spill .ready up).drain with c := 63, u := 3, p := 2, q := 2 } }).SpillLaw ∧
    ∃ t, step (waiting .tick { spill .ready up with drain :=
      { (spill .ready up).drain with c := 63, u := 3, p := 2, q := 2 } }) = .next t := by
  refine ⟨?_, _, rfl⟩
  simp only [State.SpillLaw]
  decide

theorem window_watching (i : Nat) (h : i ≠ 15) : watching.window i = Window.reset := by
  unfold State.window
  by_cases h8 : i < 16
  · simp [watching, up, State.reset, h8, Ne.symm h]
  · rw [Vector.getElem?_eq_none (by omega)]
    rfl

theorem witness_WindowAndAnswerLawsKept :
    (waiting (.winDisable (frame [15])) (stray 255 watching)).WindowLaw ∧
    (waiting (.winDisable (frame [15])) (stray 255 watching)).AnswerLaw ∧
    ∃ t, step (waiting (.winDisable (frame [15])) (stray 255 watching)) = .next t := by
  refine ⟨fun i => ?_, by simp only [State.AnswerLaw]; decide, _, rfl⟩
  show (watching.window i).inRange
  by_cases h : i = 15
  · subst h
    simp only [show watching.window 15 = zone by decide]
    simp [Window.inRange, zone, Window.reset, ElemSize.bytes]
  · rw [window_watching i h]
    simp [Window.inRange, Window.reset, ElemSize.bytes]

theorem witness_SettingsEventsAndGuardsStay :
    (∃ t, exec (.clearWindows (frame [2])) (stray 255 { up with session := { up.session with guardsInForce := true } }) =
      .next t) ∧
    (Instr.clearWindows (frame [2])).wellFormed = true ∧ Instr.clearWindows (frame [2]) ≠ .pinReset ∧
    (∀ f, Instr.clearWindows (frame [2]) ≠ .clearAll f ∧ Instr.clearWindows (frame [2]) ≠ .eventAck f ∧
      Instr.clearWindows (frame [2]) ≠ .clearEvents f ∧ Instr.clearWindows (frame [2]) ≠ .clearSession f) ∧
    (stray 255 up).events.pending.getLsbD 12 = true ∧ (frame [2]).args.head? ≠ some 4 := by
  refine ⟨⟨_, rfl⟩, by decide, by simp, fun f => by simp, by decide, by decide⟩

end Sys2Proof.Tests
end

section
/-! The watch windows: their regions, the candidate and hit tests and the byte conditions; and the state after reset. -/

namespace Sys2Proof.Machine

/-! ### Reset -/

/-- Settles O2: each field is a constant of `State.reset`, and the three tables hold one record at every index. -/
theorem resetValues : Obligations.ResetValues := by
  refine ⟨by decide, by decide, rfl, rfl, rfl, by decide, ⟨rfl, rfl, rfl, rfl, rfl⟩, rfl, rfl, rfl, rfl, rfl, rfl, rfl, rfl,
    by decide, rfl, rfl, rfl, rfl⟩

/-! ### The region of a window -/

theorem inside_iff (w : Window) (a : Nat) :
    w.inside a = true ↔
      w.base.toNat ≤ a ∧ (a - w.base.toNat) / w.pitch < w.height ∧ (a - w.base.toNat) % w.pitch < w.width := by
  simp [Window.inside, and_assoc]

/-- A number has one row and one column among rows of `p` columns. -/
theorem row_column_unique {p k j k' j' : Nat} (hj : j < p) (hj' : j' < p) (h : k * p + j = k' * p + j') :
    k = k' ∧ j = j' := by
  have hp : 0 < p := by omega
  have hdiv : ∀ a b : Nat, b < p → (a * p + b) / p = a := fun a b hb => by
    rw [Nat.mul_comm, Nat.mul_add_div hp, Nat.div_eq_of_lt hb, Nat.add_zero]
  have hk : k = k' := by rw [← hdiv k j hj, h, hdiv k' j' hj']
  subst hk
  exact ⟨rfl, by omega⟩

/-- The quotient and remainder test picks out the bytes of the rows (R2). -/
theorem inside_iff_row {w : Window} (h : w.inRange) (a : Nat) :
    w.inside a = true ↔ ∃ k < w.height, ∃ j < w.width, a = w.base.toNat + k * w.pitch + j := by
  obtain ⟨hp, -, -, hwp, -⟩ := h
  rw [inside_iff]
  constructor
  · rintro ⟨hb, hk, hj⟩
    refine ⟨_, hk, _, hj, ?_⟩
    have := Nat.div_add_mod' (a - w.base.toNat) w.pitch
    omega
  · rintro ⟨k, hk, j, hj, rfl⟩
    have hoff : w.base.toNat + k * w.pitch + j - w.base.toNat = j + k * w.pitch := by omega
    rw [hoff, Nat.add_mul_div_right _ _ hp, Nat.add_mul_mod_self_right, Nat.div_eq_of_lt (by omega),
      Nat.mod_eq_of_lt (by omega)]
    exact ⟨by omega, by omega, hj⟩

/-- A window as wide as its pitch is one range of addresses (R2). -/
theorem inside_iff_range {w : Window} (h : w.inRange) (hw : w.width = w.pitch) (a : Nat) :
    w.inside a = true ↔ w.base.toNat ≤ a ∧ a < w.base.toNat + w.height * w.pitch := by
  obtain ⟨hp, -⟩ := h
  have hmod := Nat.mod_lt (a - w.base.toNat) hp
  rw [inside_iff, hw, Nat.div_lt_iff_lt_mul hp]
  omega

/-- No byte of a window in range lies past the last address (R3). -/
theorem inside_lt {w : Window} (h : w.inRange) {a : Nat} (ha : w.inside a = true) : a < 2 ^ 40 := by
  obtain ⟨k, hk, j, hj, rfl⟩ := (inside_iff_row h a).1 ha
  obtain ⟨-, -, -, -, -, -, hend, -⟩ := h
  have hrow : k * w.pitch ≤ (w.height - 1) * w.pitch := Nat.mul_le_mul_right _ (by omega)
  omega

/-- Settles O8, from the row form of the quotient and remainder test. -/
theorem windowRegion : Obligations.WindowRegion := by
  intro w a h
  refine ⟨inside_iff w a, inside_iff_row h a, fun k j k' j' hj hj' e => ?_, fun hw => inside_iff_range h hw a, inside_lt h⟩
  obtain ⟨-, -, -, hwp, -⟩ := h
  exact row_column_unique (p := w.pitch) (by omega) (by omega) (by omega)

/-! ### Candidates and hits -/

theorem candidate_iff (w : Window) (r : HostReq) :
    w.candidate r = true ↔ w.enabled = true ∧ w.sources.getLsbD r.source.toNat = true ∧
      ∃ k < r.len, w.inside (r.addr.toNat + k) = true := by
  rw [Window.candidate, Bool.and_eq_true, Bool.and_eq_true, bytesAt_any, and_assoc]

theorem candidates_engaged_write {s : State} {r : HostReq} (hk : r.kind = .write) (he : s.engaged = true) :
    s.candidates r = setWhere fun i => (s.window i).candidate r := by
  simp [State.candidates, hk, he]

/-- Settles O9: a read and a request in BYPASS have no candidate, and an ENGAGED write the windows of the candidate test. -/
theorem candidateSet : Obligations.CandidateSet := by
  intro s r i hi
  cases hk : r.kind with
  | read => simp [candidates_read hk]
  | write =>
    cases he : s.engaged with
    | false => simp [candidates_bypass he]
    | true =>
      rw [candidates_engaged_write hk he, setWhere_getLsbD _ hi, candidate_iff]
      simp

theorem hitBy_old (w : Window) (r : HostReq) (old : List Byte) :
    w.hitBy r (some old) = true ↔
      ∃ k < r.len, w.inside (r.addr.toNat + k) = true ∧ w.conditionAt old r (r.addr.toNat + k) = true := by
  simp only [Window.hitBy, bytesAt_any, Bool.and_eq_true]

theorem guardInForce_iff (s : State) (g : Guard) :
    s.guardInForce g = true ↔ g = .always ∨ g = .afterFire ∧ s.session.guardsInForce = true := by
  cases g <;> simp [State.guardInForce]

theorem refuses_iff (s : State) (hits : Set16) :
    s.refuses hits = true ↔ ∃ i < 16, hits.getLsbD i = true ∧
      ((s.window i).guard = .always ∨ (s.window i).guard = .afterFire ∧ s.session.guardsInForce = true) := by
  simp only [State.refuses, anyMember_iff, guardInForce_iff]

/-- Settles O10, by the membership rules of the three sets. -/
theorem hitSetAndRefusal : Obligations.HitSetAndRefusal := by
  refine ⟨fun s w i hi => ⟨?_, fun old => ?_⟩, fun s hits => ⟨refuses_iff s hits, fun i hi => ?_⟩⟩
  · rw [hitSet_getLsbD s w none hi]
    simp [Window.hitBy]
  · rw [hitSet_getLsbD s w (some old) hi, Bool.and_eq_true, Bool.and_eq_true, hitBy_old, and_assoc]
  · rw [recordSet_getLsbD s hits hi, Bool.and_eq_true]

end Sys2Proof.Machine
end

section
/-! The conditions of a window, byte by byte: the bytes of a word, of an element, and of the line after a write. -/

namespace Sys2Proof.Machine

/-! ### The bytes of a word -/

theorem getLsbD_eq_maskByte (v : BitVec 64) (i : Nat) : v.getLsbD i = (maskByte v (i / 8)).getLsbD (i % 8) := by
  have hlt : i % 8 < 8 := Nat.mod_lt _ (by decide)
  simp [maskByte, hlt, Nat.div_add_mod]

theorem maskByte_and (x y : BitVec 64) (j : Nat) : maskByte (x &&& y) j = maskByte x j &&& maskByte y j := by
  simp [maskByte, BitVec.extractLsb'_and]

/-- A word below 256 to the power `e` has no byte at `e` or above. -/
theorem maskByte_eq_zero {m : BitVec 64} {e j : Nat} (h : m.toNat < 2 ^ (8 * e)) (hj : e ≤ j) : maskByte m j = 0 := by
  have hlt : m.toNat < 2 ^ (8 * j) := Nat.lt_of_lt_of_le h (Nat.pow_le_pow_right (by decide) (by omega))
  apply BitVec.eq_of_toNat_eq
  simp [maskByte, Nat.shiftRight_eq_div_pow, Nat.div_eq_of_lt hlt]

/-- Two words agree under a mask of `e` bytes when their bytes do. -/
theorem masked_eq_iff {x y m : BitVec 64} {e : Nat} (h : m.toNat < 2 ^ (8 * e)) :
    x &&& m = y &&& m ↔ ∀ j < e, maskByte x j &&& maskByte m j = maskByte y j &&& maskByte m j := by
  constructor
  · intro heq j _
    rw [← maskByte_and, heq, maskByte_and]
  · intro hb
    refine BitVec.eq_of_getLsbD_eq fun i _ => ?_
    rw [getLsbD_eq_maskByte, getLsbD_eq_maskByte (y &&& m), maskByte_and, maskByte_and]
    by_cases hj : i / 8 < e
    · rw [hb _ hj]
    · rw [maskByte_eq_zero h (by omega)]
      simp

/-- Two words differ at a masked bit exactly where they differ under the mask. -/
theorem xor_and_eq_zero_iff (x y m : BitVec 64) : (x ^^^ y) &&& m = 0 ↔ x &&& m = y &&& m := by
  have hd : (x ^^^ y) &&& m = (x &&& m) ^^^ (y &&& m) := by ext i hi; simp [Bool.and_xor_distrib_right]
  rw [hd]
  exact BitVec.xor_eq_zero_iff

/-! ### The bytes of an element -/

theorem leValue_byte (bs : List Byte) (j : Nat) : leValue bs / 256 ^ j % 256 = (bs.getD j 0).toNat := by
  induction bs generalizing j with
  | nil => simp [leValue]
  | cons b bs ih =>
    have hb := b.isLt
    cases j with
    | zero => simp only [leValue, Nat.pow_zero, Nat.div_one, List.getD_cons_zero]; omega
    | succ j =>
      have hrest : (b.toNat + 256 * leValue bs) / 256 = leValue bs := by omega
      rw [leValue, List.getD_cons_succ, ← ih, Nat.pow_succ', ← Nat.div_div_eq_div_mul, hrest]

/-- Byte `j` of a word made of at most 8 bytes is the byte at `j` (00_scope.md, Byte order). -/
theorem maskByte_leValue {bs : List Byte} (h : bs.length ≤ 8) (j : Nat) :
    maskByte (BitVec.ofNat 64 (leValue bs)) j = bs.getD j 0 := by
  have hlt : leValue bs < 2 ^ 64 :=
    Nat.lt_of_lt_of_le (leValue_lt bs) (Nat.le_trans (Nat.pow_le_pow_right (by decide) h) (by decide))
  apply BitVec.eq_of_toNat_eq
  rw [← leValue_byte]
  simp only [maskByte, BitVec.extractLsb'_toNat, BitVec.toNat_ofNat, Nat.mod_eq_of_lt hlt, Nat.shiftRight_eq_div_pow,
    Nat.pow_mul]

theorem elemSize_bytes_le (e : ElemSize) : e.bytes ≤ 8 := by cases e <;> decide

/-- An element lies in one line, at a multiple of its size (R4). -/
theorem element_place (e : ElemSize) {a j : Nat} (hj : j < e.bytes) :
    (a / e.bytes * e.bytes + j) / 64 = a / 64 ∧ (a / e.bytes * e.bytes + j) % 64 = a % 64 / e.bytes * e.bytes + j := by
  cases e <;> simp only [ElemSize.bytes] at hj ⊢ <;> omega

/-- Byte `j` of the element that holds the byte at `a` is the line's byte at the element's place plus `j` (R4). -/
theorem maskByte_elementAt (line : List Byte) (e : ElemSize) {a j : Nat} (hj : j < e.bytes) :
    maskByte (elementAt line e.bytes a) j = line.getD ((a / e.bytes * e.bytes + j) % 64) 0 := by
  have hlen : ((line.drop (a % 64 / e.bytes * e.bytes)).take e.bytes).length ≤ 8 := by
    have := elemSize_bytes_le e
    simp only [List.length_take]
    omega
  rw [elementAt, maskByte_leValue hlen, (element_place e hj).2]
  simp [List.getD_eq_getElem?_getD, List.getElem?_take_of_lt hj]

/-! ### The line after a write -/

/-- The byte of the new line at an address of the write's line is the byte the address has after the write (R9). -/
theorem newLine_getD {old : List Byte} {r : HostReq} {a : Nat} (hold : old.length = 64) (hdata : r.data.length = r.len)
    (hline : a / 64 = r.addr.toNat / 64) :
    (newLine old r).getD (a % 64) 0 = byteAfter old r a := by
  have htake : (old.take (lineOffset r.addr)).length = r.addr.toNat % 64 := by
    simp only [List.length_take, lineOffset]
    omega
  simp only [newLine, byteAfter, List.getD_eq_getElem?_getD, List.append_assoc]
  by_cases hbefore : a < r.addr.toNat
  · rw [List.getElem?_append_left (by omega), List.getElem?_take_of_lt (by simp only [lineOffset]; omega), if_neg (by omega)]
  · rw [List.getElem?_append_right (by omega), htake]
    by_cases hin : a < r.addr.toNat + r.len
    · rw [List.getElem?_append_left (by omega), if_pos (by omega)]
      congr 2
      omega
    · rw [List.getElem?_append_right (by omega), if_neg (by omega), List.getElem?_drop, hdata]
      congr 2
      simp only [lineOffset]
      omega

/-! ### The conditions -/

theorem conditionAt_matches {w : Window} (h : w.condition = .matches) (old : List Byte) (r : HostReq) (a : Nat) :
    w.conditionAt old r a = true ↔
      elementAt (newLine old r) w.element.bytes a &&& w.mask = w.value &&& w.mask := by
  simp [Window.conditionAt, h]

theorem conditionAt_changes {w : Window} (h : w.condition = .changes) (old : List Byte) (r : HostReq) (a : Nat) :
    w.conditionAt old r a = true ↔
      elementAt (newLine old r) w.element.bytes a &&& w.mask ≠ elementAt old w.element.bytes a &&& w.mask := by
  rw [Ne, ← xor_and_eq_zero_iff]
  simp [Window.conditionAt, h]

/-- Settles O11: each condition compares two words under the mask, and so their bytes, which are the element's. -/
theorem elementConditions : Obligations.ElementConditions := by
  intro w old r a hw hold hdata _ hfit ha ha'
  obtain ⟨-, -, -, -, -, -, -, hmask, -⟩ := hw
  have hnew : ∀ j < w.element.bytes, maskByte (elementAt (newLine old r) w.element.bytes a) j =
      byteAfter old r (a / w.element.bytes * w.element.bytes + j) := fun j hj => by
    have hplace := (element_place w.element (a := a) hj).1
    rw [maskByte_elementAt _ _ hj, newLine_getD hold hdata (by omega)]
  refine ⟨fun h => by simp [Window.conditionAt, h], fun h => ?_, fun h => ?_⟩
  · rw [conditionAt_matches h, masked_eq_iff hmask]
    exact forall₂_congr fun j hj => by rw [hnew j hj]
  · rw [conditionAt_changes h, Ne, masked_eq_iff hmask]
    push Not
    exact exists_congr fun j => and_congr_right fun hj => by rw [hnew j hj, maskByte_elementAt _ _ hj]

end Sys2Proof.Machine
end

section
/-! The resolution of a write that goes ahead: what it does for each answer of its append, and the appends by session state. -/

namespace Sys2Proof.Machine

/-! ### The count and the hit set -/

theorem countStep_eq (b : Bool) (s : State) :
    countStep b s = if b = true ∧ s.seqr.state = .counting then takeCount s else s := by
  simp [countStep]

theorem countStep_false (s : State) : countStep false s = s := rfl

theorem counts_of_not_armed {s : State} (h : s.session.state ≠ .armed) (hits : Set16) : s.counts hits = false := by
  simp [State.counts, h]

theorem counts_empty (s : State) : s.counts 0 = false := by
  have : s.stageHit 0 = false := by
    unfold State.stageHit
    split <;> simp
  rw [State.counts, this, Bool.and_false]

theorem refuses_empty (s : State) : s.refuses 0 = false := by simp [State.refuses, anyMember]

theorem recordSet_empty (s : State) : s.recordSet 0 = 0 :=
  BitVec.eq_of_getLsbD_eq fun i hi => by rw [recordSet_getLsbD s 0 hi]; simp

theorem recording_iff (s : State) :
    s.recording = true ↔ s.session.state = .running ∨ s.session.state = .armed ∨ s.session.state = .fired := by
  unfold State.recording
  cases s.session.state <;> simp

/-! ### Appends -/

section
variable {s : State} (d : Draft)

theorem appendWrite_skip (h : s.session.state = .running) (hp : s.ring.policy = .skip ∨ s.engaged = false) :
    appendWrite d s = (appendSkip d.body d.time s, false) := by
  rcases hp with hp | hp <;> simp [appendWrite, h, hp]

theorem appendWrite_hold (h : s.session.state = .running) (hp : s.ring.policy = .hold) (he : s.engaged = true) :
    appendWrite d s = appendHold d s := by
  simp [appendWrite, h, hp, he]

theorem appendWrite_armed (h : s.session.state = .armed) : appendWrite d s = (appendArmed d.body d.time s, false) := by
  simp [appendWrite, h]

theorem appendWrite_fired (h : s.session.state = .fired) : appendWrite d s = (appendFired d.body d.time s, false) := by
  simp [appendWrite, h]

/-- With a slot free and no gap, a RUNNING session's record is one append under either policy (R52, R53). -/
theorem appendWrite_room (h : s.session.state = .running) (hfree : s.ring.free ≠ 0) (hgap : s.ring.gap = 0) :
    appendWrite d s = (appendRec false d.body d.time s, false) := by
  simp [appendWrite, appendHold, appendSkip, h, hfree, hgap]

end

/-! ### The resolution -/

section
variable {i : Nat} {line : Addr} {w : HeldWrite} {old : Option (List Byte)} {parked : List Parked} {hits : Set16} {s v : State}

theorem resolve_ahead (h : s.refuses (s.hitSet w old) = false) :
    resolve i line w old parked s = resolveAhead i line w old parked (s.hitSet w old) s := by
  simp [resolve, h]

/-- No record is due: the count is taken, and the write is queued and its entry released (R29, R31, R91). -/
theorem resolveAhead_unrecorded (h : s.recordSet hits = 0 ∨ s.recording = false ∨
      s.counts hits = true ∧ (s.stageAt s.seqr.stage).quiet = true) :
    resolveAhead i line w old parked hits s = finishAhead i w (countStep (s.counts hits) s) := by
  rcases h with h | h | ⟨h, hq⟩
  · simp [resolveAhead, h]
  · simp [resolveAhead, h]
  · simp [resolveAhead, h, hq]

/-- A record is due: its append decides between the finish and the wait for a slot (R29, R32). -/
theorem resolveAhead_recorded (hr : s.recordSet hits ≠ 0) (hs : s.recording = true)
    (hq : s.counts hits = true → (s.stageAt s.seqr.stage).quiet = false) {d : Draft} {waits : Bool}
    (hd : d = { time := s.time.counter, info := recordInfo w (s.recordSet hits) old })
    (ha : appendWrite d s = (v, waits)) :
    resolveAhead i line w old parked hits s =
      if waits then waitForSlot i line w old d parked v else finishAhead i w (countStep (s.counts hits) v) := by
  have hquiet : (s.counts hits && (s.stageAt s.seqr.stage).quiet) = false := by
    cases hc : s.counts hits with
    | false => rfl
    | true => simpa using hq hc
  have hdue : (s.recording && s.recordSet hits != 0 && !(s.counts hits && (s.stageAt s.seqr.stage).quiet)) = true := by
    rw [hs, hquiet, bne_iff_ne.2 hr]
    rfl
  subst hd
  rw [resolveAhead, if_pos hdue]
  dsimp only
  rw [ha]
  cases waits <;> rfl

/-- A write that hits no window goes ahead untouched (R11). -/
theorem resolve_no_hit (h : s.hitSet w old = 0) :
    resolve i line w old parked s = finishAhead i w s := by
  rw [resolve_ahead (by rw [h]; exact refuses_empty s), h, resolveAhead_unrecorded (.inl (recordSet_empty s)), counts_empty,
    countStep_false]

/-- A recorded write in a RUNNING session with a slot free, no gap and numbers left (R52, R53). -/
theorem resolve_recorded_room (h : s.refuses (s.hitSet w old) = false) (hr : s.recordSet (s.hitSet w old) ≠ 0)
    (hs : s.session.state = .running) (hfree : s.ring.free ≠ 0) (hgap : s.ring.gap = 0) (hn : s.ring.nextSeq ≠ lastSeq) :
    resolve i line w old parked s = finishAhead i w (pushRec false
      (.write (recordInfo w (s.recordSet (s.hitSet w old)) old) .pending false) s.time.counter s) := by
  have hc : s.counts (s.hitSet w old) = false := counts_of_not_armed (by rw [hs]; decide) _
  rw [resolve_ahead h, resolveAhead_recorded hr ((recording_iff s).2 (.inl hs)) (by simp [hc]) rfl
    (appendWrite_room _ hs hfree hgap), appendRec_of_ne hn, hc, countStep_false]
  rfl

end

/-- Settles O14: the due record goes to the append of its session state, and what the append answers decides the rest. -/
theorem writeThatGoesAhead : Obligations.WriteThatGoesAhead := by
  refine ⟨fun i line w old parked s h => resolve_no_hit h, ?_, ?_⟩
  · rintro i line w old parked hits info s v u rfl hrefuse hinfo rfl
    have hinfo : info = recordInfo w (s.recordSet (s.hitSet w old)) old := hinfo
    rw [resolve_ahead hrefuse, ← countStep_eq]
    refine ⟨?_, fun hr hs hp he ha => ?_⟩
    · rintro (⟨rfl, hnone⟩ | ⟨hr, hq, hdue⟩)
      · refine resolveAhead_unrecorded (hnone.imp_right ?_)
        rintro (h | h | h | h)
        · exact .inl (by simp [State.recording, h])
        · exact .inl (by simp [State.recording, h])
        · exact .inl (by simp [State.recording, h])
        · exact .inr h
      · have hahead : s.recording = true → appendWrite { time := s.time.counter, info := info } s = (v, false) →
            resolveAhead i line w old parked (s.hitSet w old) s =
              finishAhead i w (countStep (s.counts (s.hitSet w old)) v) := fun hrec ha =>
          resolveAhead_recorded hr hrec hq (by rw [hinfo]) ha
        rcases hdue with ⟨hs, hp, rfl⟩ | ⟨hs, hp, he, ha⟩ | ⟨hs, rfl⟩ | ⟨hs, rfl⟩
        · exact hahead ((recording_iff s).2 (.inl hs)) (appendWrite_skip _ hs hp)
        · exact hahead ((recording_iff s).2 (.inl hs)) ((appendWrite_hold _ hs hp he).trans ha)
        · exact hahead ((recording_iff s).2 (.inr (.inl hs))) (appendWrite_armed _ hs)
        · exact hahead ((recording_iff s).2 (.inr (.inr hs))) (appendWrite_fired _ hs)
    · have hc : s.counts (s.hitSet w old) = false := counts_of_not_armed (by rw [hs]; decide) _
      exact resolveAhead_recorded hr ((recording_iff s).2 (.inl hs)) (by simp [hc]) (by rw [hinfo])
        ((appendWrite_hold _ hs hp he).trans ha)
  · intro i line w old parked s h hr hs hlen hgap hn
    have hfree : s.ring.free ≠ 0 := by simp only [Ring.free]; omega
    have hlast : s.ring.nextSeq ≠ lastSeq := by simp only [lastSeq]; omega
    rw [resolve_recorded_room h hr hs hfree hgap hlast, pushRec_eq]
    by_cases ht : s.ring.recs.length + 1 = s.ring.threshold <;>
      simp [ht, finishAhead, enqueue, HostReq.item, recordInfo, lineOffset, RecBody.pairs]

end Sys2Proof.Machine
end

section
/-! Frames that read one record, the clears of windows and events, and the window commands that write. -/

namespace Sys2Proof.Machine

/-! ### Argument fields and codes -/

/-- The bytes of a whole argument field are the frame's own (R171). -/
theorem beBytes_argField {args : List Byte} {off n : Nat} (h : off + n ≤ args.length) :
    beBytes n (argField args off n) = (args.drop off).take n := by
  have hlen : ((args.drop off).take n).reverse.length = n := by
    simp only [List.length_reverse, List.length_take, List.length_drop]
    omega
  have := leBytes_leValue ((args.drop off).take n).reverse
  rw [hlen] at this
  rw [beBytes, argField, beValue, this, List.reverse_reverse]

theorem conditionOf_eq_some {n : Nat} {c : Condition} : conditionOf n = some c ↔ n = c.code := by
  unfold conditionOf
  split <;> cases c <;> simp_all [Condition.code]

theorem guardOf_eq_some {n : Nat} {g : Guard} : guardOf n = some g ↔ n = g.code := by
  unfold guardOf
  split <;> cases g <;> simp_all [Guard.code]

theorem elemSizeOf_eq_some {n : Nat} {e : ElemSize} : elemSizeOf n = some e ↔ n = e.bytes := by
  unfold elemSizeOf
  split <;> cases e <;> simp_all [ElemSize.bytes]

theorem yesNoOf_eq_some {n : Nat} {b : Bool} : yesNoOf n = some b ↔ n = yesNo b := by
  unfold yesNoOf
  split <;> cases b <;> simp_all [yesNo]

theorem ringPartOf_eq_none {n : Nat} : ringPartOf n = none ↔ 2 < n := by
  match n with
  | 0 | 1 | 2 => simp [ringPartOf]
  | n + 3 => exact ⟨fun _ => by omega, fun _ => rfl⟩

theorem clearScopeOf_eq_none {n : Nat} (h : n ∉ [1, 2, 3, 4]) : clearScopeOf n = none := by
  unfold clearScopeOf
  split <;> simp_all

/-! ### Frames that read one record -/

section
variable {f : Frame} {i : Nat} {s : State}

theorem exec_winGet (h : s.resetHeld = false) (hf : 1 ≤ f.args.length) (hi : i = argField f.args 0 1) :
    exec (.winGet f) s = .next (if 15 < i then answered .badArg [] (framed f s)
      else answered .ok (windowBytes (s.window i)) (framed f s)) := by
  subst hi
  split
  next hi => exact congrArg _ (portFrame_refuses h hf (by simp [runWinGet, hi]))
  next hi => exact congrArg _ (portFrame_shows h hf (by simp [runWinGet, hi]))

theorem exec_seqGet (h : s.resetHeld = false) (hf : 1 ≤ f.args.length) (hi : i = argField f.args 0 1) :
    exec (.seqGet f) s = .next (if 7 < i then answered .badArg [] (framed f s)
      else answered .ok (stageBytes (s.stageAt i) s.seqr.length) (framed f s)) := by
  subst hi
  split
  next hi => exact congrArg _ (portFrame_refuses h hf (by simp [runSeqGet, hi]))
  next hi => exact congrArg _ (portFrame_shows h hf (by simp [runSeqGet, hi]))

theorem exec_holdRead (h : s.resetHeld = false) (hf : 1 ≤ f.args.length) (hi : i = argField f.args 0 1) :
    exec (.holdRead f) s = .next (if 7 < i then answered .badArg [] (framed f s)
      else answered .ok (holdBytes (s.entry i)) (framed f s)) := by
  subst hi
  split
  next hi => exact congrArg _ (portFrame_refuses h hf (by simp [runHoldRead, hi]))
  next hi => exact congrArg _ (portFrame_shows h hf (by simp [runHoldRead, hi]))

theorem exec_ringRead_badArg (h : s.resetHeld = false) (hf : 5 ≤ f.args.length) (hp : 2 < argField f.args 4 1) :
    exec (.ringRead f) s = .next (answered .badArg [] (framed f s)) :=
  congrArg _ (portFrame_refuses h hf (by simp [runRingRead, ringPartOf_eq_none.2 hp]))

theorem exec_ringRead {part : RingPart} (h : s.resetHeld = false) (hf : 5 ≤ f.args.length)
    (hp : ringPartOf (argField f.args 4 1) = some part) :
    exec (.ringRead f) s = .next (match s.ring.find (argField f.args 0 4) with
      | none => answered .notFound [] (framed f s)
      | some r => answered .ok (r.readBytes part) (framed f s)) := by
  cases hr : s.ring.find (argField f.args 0 4) with
  | none => exact congrArg _ (portFrame_refuses h hf (by simp [runRingRead, hp, hr]))
  | some r => exact congrArg _ (portFrame_shows h hf (by simp [runRingRead, hp, hr]))

end

/-- A header has 32 bytes, and 32 zeros follow it (R61, R172). -/
theorem readBytes_header (r : Rec) : r.readBytes .header = r.header.bytesBy beBytes ++ List.replicate 32 0 := by
  rw [Rec.readBytes, padTo, header_length_be]
  rfl

/-- Settles O33: each frame is read by its command's result layout; RING_READ by the part that its code names. -/
theorem indexedReads : Obligations.IndexedReads := by
  refine ⟨⟨rfl, rfl, rfl⟩, fun args off n => beBytes_argField, ?_, fun f i s h hf hi => ⟨?_, ?_, ?_, ?_, ?_⟩, ?_⟩
  · intro seq time w st b n c r
    exact ⟨by rintro (rfl | rfl) <;> exact ⟨rfl, rfl⟩, by rintro (rfl | rfl) <;> exact ⟨rfl, rfl⟩⟩
  · exact exec_winGet h hf hi
  · rw [exec_seqGet h hf hi]
    cases hw : (s.stageAt i).window <;> simp [stageBytes, stageWindowCode, yesNo, hw]
  · intro hbig
    rw [exec_holdRead h hf hi, if_pos hbig]
  · intro hle he
    rw [exec_holdRead h hf hi, if_neg (by omega), he]
    rfl
  · intro line owner parked hle he
    rw [exec_holdRead h hf hi, if_neg (by omega), he]
    cases owner <;> rfl
  · intro f s h hf
    split
    next hp => exact exec_ringRead_badArg h hf hp
    next hp =>
      obtain hp | hp | hp : argField f.args 4 1 = 0 ∨ argField f.args 4 1 = 1 ∨ argField f.args 4 1 = 2 := by omega
      · rw [exec_ringRead (part := .header) h hf (by rw [hp]; rfl)]
        simp only [readBytes_header, hp, Ring.find]
        rfl
      · rw [exec_ringRead (part := .old) h hf (by rw [hp]; rfl)]
        simp only [hp]
        rfl
      · rw [exec_ringRead (part := .new) h hf (by rw [hp]; rfl)]
        simp only [hp]
        rfl

/-! ### CLEAR -/

theorem clearFrame_done {f : Frame} {b : Byte} {scope : ClearScope} {s : State} (h : s.resetHeld = false)
    (hb : f.args.head? = some b) (hs : clearScopeOf b.toNat = some scope) :
    portFrame 0x03 1 runClear f s = answered .ok [] (clearScope scope (framed f s)) := by
  obtain ⟨hf, hn⟩ := argField_head hb
  exact portFrame_done h hf (by simp [runClear, hn, hs])

theorem clearFrame_badArg {f : Frame} {b : Byte} {s : State} (h : s.resetHeld = false) (hb : f.args.head? = some b)
    (hs : clearScopeOf b.toNat = none) : portFrame 0x03 1 runClear f s = answered .badArg [] (framed f s) := by
  obtain ⟨hf, hn⟩ := argField_head hb
  exact portFrame_refuses h hf (by simp [runClear, hn, hs])

/-- Settles O34: the scope byte alone decides, whichever row of CLEAR the frame is (log entry 12). -/
theorem clearWindowsAndEvents : Obligations.ClearWindowsAndEvents := by
  refine fun f s h => ⟨fun hb => congrArg _ (clearFrame_done h hb (scope := .windows) rfl),
    fun hb => congrArg _ (clearFrame_done h hb (scope := .events) rfl), fun b hb hnot => congrArg Host.Outcome.next ?_⟩
  refine clearFrame_badArg h hb (clearScopeOf_eq_none fun hmem => hnot ?_)
  simp only [List.mem_cons, List.not_mem_nil, or_false] at hmem ⊢
  exact hmem.imp BitVec.eq_of_toNat_eq
    (Or.imp BitVec.eq_of_toNat_eq (Or.imp BitVec.eq_of_toNat_eq BitVec.eq_of_toNat_eq))

/-! ### WIN_SET -/

/-- A value cut to E bytes is its remainder (R4). -/
theorem cut_ofNat (e : ElemSize) (n : Nat) : e.cut (BitVec.ofNat 64 n) = BitVec.ofNat 64 (n % 2 ^ (8 * e.bytes)) := by
  have hle : 8 * e.bytes ≤ 64 := by have := elemSize_bytes_le e; omega
  have hpow : 2 ^ (8 * e.bytes) ≤ 2 ^ 64 := Nat.pow_le_pow_right (by decide) hle
  have hpos : 0 < 2 ^ (8 * e.bytes) := Nat.two_pow_pos _
  have hmod : n % 2 ^ (8 * e.bytes) < 2 ^ (8 * e.bytes) := Nat.mod_lt _ hpos
  apply BitVec.eq_of_toNat_eq
  rw [ElemSize.cut, BitVec.toNat_and, BitVec.toNat_ofNat, BitVec.toNat_ofNat, BitVec.toNat_ofNat,
    Nat.mod_eq_of_lt (show 2 ^ (8 * e.bytes) - 1 < 2 ^ 64 by omega), Nat.and_two_pow_sub_one_eq_mod,
    Nat.mod_mod_of_dvd _ (Nat.pow_dvd_pow 2 hle), Nat.mod_eq_of_lt (show n % 2 ^ (8 * e.bytes) < 2 ^ 64 by omega)]

/-- The numbers of a WIN_SET that check 3 refuses (R3, R14). -/
def windowNumbersBad (args : List Byte) : Prop :=
  argField args 6 4 = 0 ∨ 16777216 < argField args 6 4 ∨ argField args 10 4 = 0 ∨ argField args 6 4 < argField args 10 4 ∨
  argField args 14 2 = 0 ∨ 65535 < argField args 14 2 ∨
  2 ^ 40 ≤ argField args 1 5 + (argField args 14 2 - 1) * argField args 6 4 + argField args 10 4 - 1

/-- The window that a WIN_SET with these codes carries (R4, R14). -/
def windowOfArgs (args : List Byte) (cond : Condition) (elem : ElemSize) (rec : Bool) (guard : Guard) : Window where
  enabled := false
  base := BitVec.ofNat 40 (argField args 1 5)
  pitch := argField args 6 4
  width := argField args 10 4
  height := argField args 14 2
  sources := BitVec.ofNat 16 (argField args 16 2)
  condition := cond
  element := elem
  mask := elem.cut (BitVec.ofNat 64 (argField args 20 8))
  value := elem.cut (BitVec.ofNat 64 (argField args 28 8))
  record := rec
  guard := guard

/-- A WIN_SET carries a window exactly where its four codes are assigned and its numbers are in range (R3, R14). -/
theorem windowArg_eq_some {args : List Byte} {w : Window} :
    windowArg args = some w ↔ ¬ windowNumbersBad args ∧ ∃ cond elem rec guard,
      argField args 18 1 = Condition.code cond ∧ argField args 19 1 = ElemSize.bytes elem ∧
      argField args 36 1 = yesNo rec ∧ argField args 37 1 = Guard.code guard ∧
      w = windowOfArgs args cond elem rec guard := by
  simp only [← conditionOf_eq_some, ← elemSizeOf_eq_some, ← yesNoOf_eq_some, ← guardOf_eq_some]
  unfold windowArg
  split
  next cond elem rec guard hc he hr hg =>
    simp only [hc, he, hr, hg, Option.some.injEq]
    split
    next hbad => simp [show windowNumbersBad args from hbad]
    next hok =>
      rw [Option.some.injEq]
      constructor
      · rintro rfl
        exact ⟨hok, _, _, _, _, rfl, rfl, rfl, rfl, rfl⟩
      · rintro ⟨-, _, _, _, _, rfl, rfl, rfl, rfl, rfl⟩
        rfl
  next hnot =>
    simp only [reduceCtorEq, false_iff]
    rintro ⟨-, cond, elem, rec, guard, hc, he, hr, hg, -⟩
    exact hnot _ _ _ _ hc he hr hg

section
variable {f : Frame} {i : Nat} {s : State} (h : s.resetHeld = false)
include h

theorem exec_winSet_index (hf : 38 ≤ f.args.length) (hi : 15 < argField f.args 0 1) :
    exec (.winSet f) s = .next (answered .badArg [] (framed f s)) :=
  congrArg _ (portFrame_refuses h hf (by simp [runWinSet, hi]))

theorem exec_winSet_enabled (hf : 38 ≤ f.args.length) (hi : argField f.args 0 1 ≤ 15)
    (he : (s.window (argField f.args 0 1)).enabled = true) :
    exec (.winSet f) s = .next (answered .badState [] (framed f s)) :=
  congrArg _ (portFrame_refuses h hf (by simp [runWinSet, Nat.not_lt.2 hi, he]))

theorem exec_winSet_fields (hf : 38 ≤ f.args.length) (hi : argField f.args 0 1 ≤ 15)
    (he : (s.window (argField f.args 0 1)).enabled = false) :
    exec (.winSet f) s = .next (match windowArg f.args with
      | some w => answered .ok [] ((framed f s).setWindow (argField f.args 0 1) w)
      | none => answered .badArg [] (framed f s)) := by
  cases hw : windowArg f.args with
  | some w => exact congrArg _ (portFrame_done h hf (by simp [runWinSet, Nat.not_lt.2 hi, he, hw]))
  | none => exact congrArg _ (portFrame_refuses h hf (by simp [runWinSet, Nat.not_lt.2 hi, he, hw]))

theorem winEnabledFrame_index {code : Byte} {b : Bool} (hf : 1 ≤ f.args.length) (hi : 15 < argField f.args 0 1) :
    portFrame code 1 (runWinEnabled b) f s = answered .badArg [] (framed f s) :=
  portFrame_refuses h hf (by simp [runWinEnabled, hi])

theorem winEnabledFrame_done {code : Byte} {b : Bool} (hf : 1 ≤ f.args.length) (hi : argField f.args 0 1 ≤ 15) :
    portFrame code 1 (runWinEnabled b) f s = answered .ok [] ((framed f s).setWindow (argField f.args 0 1)
      { s.window (argField f.args 0 1) with enabled := b }) :=
  portFrame_done h hf (by simp [runWinEnabled, Nat.not_lt.2 hi])

end

/-- Settles O38: the index, the enabled field and the fields of the frame decide a WIN_SET, in this order. -/
theorem windowProgramming : Obligations.WindowProgramming := by
  refine ⟨?_, ?_⟩
  · rintro f i base pitch width height s h hf rfl rfl rfl rfl rfl
    refine ⟨exec_winSet_index h hf, exec_winSet_enabled h hf, fun hi he hbad => ?_, ?_⟩
    · have hnone : windowArg f.args = none := by
        refine Option.eq_none_iff_forall_ne_some.2 fun w hw => ?_
        obtain ⟨hok, cond, elem, rec, guard, hc, hel, hr, hg, -⟩ := windowArg_eq_some.1 hw
        have hc2 : Condition.code cond ≤ 2 := by cases cond <;> decide
        have hel4 : ElemSize.bytes elem ∈ [1, 2, 4, 8] := by cases elem <;> decide
        have hr1 : yesNo rec ≤ 1 := by cases rec <;> decide
        have hg2 : Guard.code guard ≤ 2 := by cases guard <;> decide
        simp only [hc, hel, hr, hg, hel4, not_true_eq_false, false_or] at hbad
        unfold windowNumbersBad at hok
        omega
      rw [exec_winSet_fields h hf hi he, hnone]
    · intro cond elem rec guard hi he hp hp' hw hw' hh hh' hend hc hel hr hg
      have hok : ¬ windowNumbersBad f.args := by unfold windowNumbersBad; omega
      have hsome := windowArg_eq_some.2 ⟨hok, cond, elem, rec, guard, hc, hel, hr, hg, rfl⟩
      rw [exec_winSet_fields h hf hi he, hsome, ← cut_ofNat, ← cut_ofNat]
      rfl
  · rintro f i s h hf rfl
    exact ⟨fun hi => ⟨congrArg _ (winEnabledFrame_index h hf hi), congrArg _ (winEnabledFrame_index h hf hi)⟩,
      fun hi => ⟨congrArg _ (winEnabledFrame_done h hf hi), congrArg _ (winEnabledFrame_done h hf hi)⟩⟩

end Sys2Proof.Machine
end

section
/-! What software sets: the settings that each command may change, and that every command keeps the rest (R154, R12). -/

namespace Sys2Proof.Machine

/-! ### Settings -/

/-- What a command of software sets, and the two sets of flags that only a command of software clears. -/
inductive Setting where
  | windows
  | engagement
  | prescale
  | enabledEvents
  | pendingEvents
  | stageList
  | ringPolicy
  | guards

def allSettings : List Setting :=
  [.windows, .engagement, .prescale, .enabledEvents, .pendingEvents, .stageList, .ringPolicy, .guards]

theorem mem_allSettings (k : Setting) : k ∈ allSettings := by cases k <;> simp [allSettings]

/-- `t` has every setting of `s` but those of the list, and no pending event and no guard in force is lost but by those. -/
structure Keeps (l : List Setting) (s t : State) : Prop where
  windows : .windows ∉ l → t.windows = s.windows
  engaged : .engagement ∉ l → t.engaged = s.engaged
  prescale : .prescale ∉ l → t.time.prescale = s.time.prescale
  enabled : .enabledEvents ∉ l → t.events.enabled = s.events.enabled
  raised : .pendingEvents ∉ l → ∀ k, s.events.pending.getLsbD k = true → t.events.pending.getLsbD k = true
  stages : .stageList ∉ l → t.seqr.stages = s.seqr.stages ∧ t.seqr.length = s.seqr.length
  policy : .ringPolicy ∉ l → t.ring.policy = s.ring.policy ∧ t.ring.threshold = s.ring.threshold
  guards : .guards ∉ l → s.session.guardsInForce = true → t.session.guardsInForce = true

theorem Keeps.refl (l : List Setting) (s : State) : Keeps l s s := by constructor <;> simp

theorem Keeps.trans {l : List Setting} {s t u : State} (h : Keeps l s t) (k : Keeps l t u) : Keeps l s u where
  windows n := (k.windows n).trans (h.windows n)
  engaged n := (k.engaged n).trans (h.engaged n)
  prescale n := (k.prescale n).trans (h.prescale n)
  enabled n := (k.enabled n).trans (h.enabled n)
  raised n i hi := k.raised n i (h.raised n i hi)
  stages n := ⟨(k.stages n).1.trans (h.stages n).1, (k.stages n).2.trans (h.stages n).2⟩
  policy n := ⟨(k.policy n).1.trans (h.policy n).1, (k.policy n).2.trans (h.policy n).2⟩
  guards n hg := k.guards n (h.guards n hg)

theorem Work.keeps {s t : State} (h : Work s t) (l : List Setting) : Keeps l s t where
  windows _ := h.windows
  engaged _ := h.engaged
  prescale _ := by rw [h.time]
  enabled _ := h.enabled
  raised _ := h.raised
  stages _ := ⟨h.stages, h.length⟩
  policy _ := ⟨h.policy, h.threshold⟩
  guards _ := h.guards

/-- A command answers one state. -/
theorem Keeps.of_next {l : List Setting} {s t u : State} (h : (.next u : Host.Outcome State Fault Refusal) = .next t)
    (hu : Keeps l s u) : Keeps l s t := Host.Outcome.next.inj h ▸ hu

theorem keeps_all (s t : State) : Keeps allSettings s t := by
  constructor <;> exact fun h => absurd (mem_allSettings _) h

/-! ### The commands of each setting -/

/-- The settings that a command other than CLEAR may change. -/
def ownSettings : Instr → List Setting
  | .pinReset => allSettings
  | .winSet _ => [.windows]
  | .winEnable _ => [.windows]
  | .winDisable _ => [.windows]
  | .engage _ => [.engagement]
  | .bypass _ => [.engagement]
  | .timePrescale _ => [.prescale]
  | .eventEnable _ => [.enabledEvents]
  | .eventAck _ => [.pendingEvents]
  | .seqSet _ => [.stageList]
  | .seqLength _ => [.stageList]
  | .sessionStart _ => [.ringPolicy]
  | _ => []

/-- The settings that a CLEAR of each scope may change (R18, R79, R80, R161). -/
def ClearScope.settings : ClearScope → List Setting
  | .session => [.guards]
  | .windows => [.windows]
  | .events => [.enabledEvents, .pendingEvents]
  | .all => allSettings

/-- The frame of the four rows of CLEAR. -/
def clearFrame : Instr → Option Frame
  | .clearSession f => some f
  | .clearWindows f => some f
  | .clearEvents f => some f
  | .clearAll f => some f
  | _ => none

/-- The settings that a frame of CLEAR may change: its scope byte decides (R169). -/
def clearSettings (f : Frame) : List Setting := ((clearScopeOf (argField f.args 0 1)).map ClearScope.settings).getD []

/-- The settings that a command may change. -/
def settingsOf (c : Instr) : List Setting := ownSettings c ++ ((clearFrame c).map clearSettings).getD []

/-- The scope byte of 11.2. -/
def ClearScope.byte : ClearScope → Byte
  | .session => 1
  | .windows => 2
  | .events => 3
  | .all => 4

theorem head_of_clearScopeOf {args : List Byte} {scope : ClearScope} (h : clearScopeOf (argField args 0 1) = some scope) :
    args.head? = some scope.byte := by
  cases args with
  | nil => simp [argField, beValue, leValue, clearScopeOf] at h
  | cons b args =>
    rw [(argField_head (b := b) rfl).2] at h
    have hn : b.toNat = scope.byte.toNat := by
      unfold clearScopeOf at h
      split at h <;> simp only [Option.some.injEq, reduceCtorEq] at h <;> subst h <;> assumption
    rw [List.head?_cons, BitVec.eq_of_toNat_eq hn]

theorem not_mem_settingsOf {k : Setting} {c : Instr} (h : k ∉ ownSettings c ∧
      ∀ f (scope : ClearScope), clearFrame c = some f → f.args.head? = some scope.byte → k ∉ scope.settings) :
    k ∉ settingsOf c := by
  obtain ⟨hown, hclear⟩ := h
  unfold settingsOf
  rw [List.mem_append, not_or]
  refine ⟨hown, ?_⟩
  cases hf : clearFrame c with
  | none => simp
  | some f =>
    simp only [Option.map_some, Option.getD_some, clearSettings]
    cases hs : clearScopeOf (argField f.args 0 1) with
    | none => simp
    | some scope => simpa using hclear f scope hf (head_of_clearScopeOf hs)

theorem clearFrame_eq_some {c : Instr} {f : Frame} :
    clearFrame c = some f ↔ c = .clearSession f ∨ c = .clearWindows f ∨ c = .clearEvents f ∨ c = .clearAll f := by
  cases c <;> simp [clearFrame]

/-- The row of CLEAR of a scope. -/
def ClearScope.row : ClearScope → Frame → Instr
  | .session => .clearSession
  | .windows => .clearWindows
  | .events => .clearEvents
  | .all => .clearAll

/-- A CLEAR that can be sent with an assigned scope is of the row of its scope (log entry 12). -/
theorem eq_row_of_wellFormed {c : Instr} {f : Frame} {scope : ClearScope} (wf : c.wellFormed = true)
    (hf : clearFrame c = some f) (hb : f.args.head? = some scope.byte) : c = scope.row f := by
  rw [clearFrame_eq_some] at hf
  rcases hf with rfl | rfl | rfl | rfl <;> cases scope <;>
    simp_all [Instr.wellFormed, firstArgIs, ClearScope.byte, ClearScope.row]

/-! ### Frames -/

@[simp] theorem done_state (s : State) : (done s).state = s := rfl
@[simp] theorem shows_state (b : List Byte) (s : State) : (shows b s).state = s := rfl
@[simp] theorem refuses_state (o : PortOutcome) (s : State) : (refuses o s).state = s := rfl

/-- A property that does not read the port outlives a frame where it outlives the frame's command: the end of a frame touches
the port alone (R165). -/
theorem portFrame_preserves {P : State → Prop} (hport : ∀ t p, P t → P { t with port := p }) {code : Byte} {argc : Nat}
    {run : List Byte → State → Reply} {f : Frame} {s : State} (hs : P s) (h : ∀ t, P t → P (run f.args t).state) :
    P (portFrame code argc run f s) := by
  cases hr : s.resetHeld with
  | true => rwa [portFrame_held hr]
  | false =>
    by_cases hf : argc ≤ f.args.length
    · rw [portFrame_run hr hf]
      exact hport _ _ (h _ (hport _ _ hs))
    · rw [portFrame_short hr (by omega)]
      exact hport _ _ (hport _ _ hs)

/-- A frame keeps what its command keeps. -/
theorem portFrame_keeps {l : List Setting} {code : Byte} {argc : Nat} {run : List Byte → State → Reply} {f : Frame} {s : State}
    (h : ∀ t, Keeps l t (run f.args t).state) : Keeps l s (portFrame code argc run f s) :=
  portFrame_preserves (fun t p ht => ht.trans (by constructor <;> simp)) (Keeps.refl l s) fun t ht => ht.trans (h t)

/-- A frame that only reads keeps everything. -/
theorem portFrame_keeps_of_same {code : Byte} {argc : Nat} {run : List Byte → State → Reply} {f : Frame} {s : State}
    (l : List Setting) (h : ∀ t, (run f.args t).state = t) : Keeps l s (portFrame code argc run f s) :=
  portFrame_keeps fun t => by rw [h]; exact Keeps.refl l t

/-! ### Window, event and engagement frames -/

theorem runWinSet_keeps (args : List Byte) (s : State) : Keeps [.windows] s (runWinSet args s).state := by
  unfold runWinSet
  split
  · exact Keeps.refl ..
  split
  · exact Keeps.refl ..
  split
  · constructor <;> simp [State.setWindow]
  · exact Keeps.refl ..

theorem runWinEnabled_keeps (b : Bool) (args : List Byte) (s : State) :
    Keeps [.windows] s (runWinEnabled b args s).state := by
  unfold runWinEnabled
  split
  · exact Keeps.refl ..
  · constructor <;> simp [State.setWindow]

theorem engaged_keeps (b : Bool) (s : State) : Keeps [.engagement] s { s with engaged := b } := by constructor <;> simp

theorem toBypass_keeps (s : State) : Keeps [.engagement] s (toBypass s) :=
  (engaged_keeps false s).trans (((releaseSlots_work ..).trans (settle_work _)).keeps _)

/-! ### Sequencer, session and ring frames -/

theorem runSeqSet_keeps (args : List Byte) (s : State) : Keeps [.stageList] s (runSeqSet args s).state := by
  unfold runSeqSet
  split
  · exact Keeps.refl ..
  split
  · exact Keeps.refl ..
  split
  · constructor <;> simp
  · exact Keeps.refl ..

theorem runSeqLength_keeps (args : List Byte) (s : State) : Keeps [.stageList] s (runSeqLength args s).state := by
  unfold runSeqLength
  split
  · exact Keeps.refl ..
  split
  · exact Keeps.refl ..
  · constructor <;> simp

theorem runSeqFire_keeps (l : List Setting) (s : State) : Keeps l s (runSeqFire s).state := by
  unfold runSeqFire
  split
  · exact (fire_work .manual s).keeps l
  · exact Keeps.refl ..

theorem startSession_keeps (a : StartArgs) (s : State) : Keeps [.ringPolicy] s (startSession a s) := by
  unfold startSession
  split
  · refine Keeps.trans ?_ ((settle_work _).keeps _)
    constructor <;> simp
  · constructor <;> simp

theorem runSessionStart_keeps (args : List Byte) (s : State) : Keeps [.ringPolicy] s (runSessionStart args s).state := by
  unfold runSessionStart
  split
  · exact Keeps.refl ..
  split
  · exact Keeps.refl ..
  split
  · exact Keeps.refl ..
  · exact startSession_keeps ..

theorem runSessionStop_keeps (l : List Setting) (s : State) : Keeps l s (runSessionStop s).state := by
  unfold runSessionStop
  split
  · exact ((stopSession_work ..).trans (settle_work _)).keeps l
  · exact Keeps.refl ..

theorem runRingRead_state (args : List Byte) (s : State) : (runRingRead args s).state = s := by
  unfold runRingRead
  split
  · rfl
  · split <;> rfl

theorem releaseThrough_work (n : Nat) (s : State) : Work s (releaseThrough n s) := by constructor <;> simp

theorem runRingRelease_keeps (l : List Setting) (args : List Byte) (s : State) :
    Keeps l s (runRingRelease args s).state := by
  unfold runRingRelease
  split
  · exact Keeps.refl ..
  split
  · exact Keeps.refl ..
  · exact (((releaseThrough_work ..).trans (serveSlots_work _)).trans (settle_work _)).keeps l

/-! ### Drain and rollback frames -/

theorem runSpillSet_keeps (l : List Setting) (args : List Byte) (s : State) : Keeps l s (runSpillSet args s).state := by
  unfold runSpillSet
  split
  · exact Keeps.refl ..
  split
  · exact Keeps.refl ..
  split
  · exact Keeps.refl ..
  · simp only [done_state, spillSet]
    split
    · exact (drainOff_work s).keeps l
    · exact ((drain_work ..).trans (settle_work _)).keeps l

theorem runSpillConsume_keeps (l : List Setting) (args : List Byte) (s : State) :
    Keeps l s (runSpillConsume args s).state := by
  simp only [runSpillConsume]
  split
  · exact Keeps.refl ..
  · exact ((drain_work ..).trans (settle_work _)).keeps l

theorem runDrainRestart_keeps (l : List Setting) (s : State) : Keeps l s (runDrainRestart s).state := by
  unfold runDrainRestart
  split
  · exact ((drain_work ..).trans (settle_work _)).keeps l
  all_goals exact Keeps.refl ..

theorem startRollback_keeps (l : List Setting) (mode : RbMode) (first last : Nat) (s : State) :
    Keeps l s (startRollback mode first last s) := by
  refine Keeps.trans ?_ (((visit_work ..).trans (settle_work _)).keeps l)
  constructor <;> simp

theorem runRollbackStart_keeps (l : List Setting) (args : List Byte) (s : State) :
    Keeps l s (runRollbackStart args s).state := by
  simp only [runRollbackStart]
  split
  · exact Keeps.refl ..
  split
  · exact Keeps.refl ..
  split
  · exact Keeps.refl ..
  split
  · exact Keeps.refl ..
  split
  · exact Keeps.refl ..
  · exact startRollback_keeps ..

theorem runRollbackAbort_keeps (l : List Setting) (s : State) : Keeps l s (runRollbackAbort s).state := by
  unfold runRollbackAbort
  split
  · exact Keeps.refl ..
  · exact ((endEarly_work ..).trans (settle_work _)).keeps l

/-! ### CLEAR -/

/-- CLEAR SESSION's work changes no setting but the guards, whatever it does to the drain (R79). -/
theorem clearSessionWork_keeps {dc : State → State} (hd : ∀ s, Work s (dc s)) (s : State) :
    Keeps [.guards] s (clearSessionWork dc s) := by
  unfold clearSessionWork
  refine ((releaseSlots_work false s.ring.slotList s).keeps _).trans (Keeps.trans ?_
    (((seqIdle_work _).trans ((endEarly_work ..).trans (hd _))).keeps _))
  constructor <;> simp [Ring.cleared]

theorem clearScope_keeps (scope : ClearScope) (s : State) : Keeps scope.settings s (clearScope scope s) := by
  cases scope with
  | session => exact (clearSessionWork_keeps drainClearSession_work s).trans ((settle_work _).keeps _)
  | windows => constructor <;> simp [clearScope, ClearScope.settings]
  | events => constructor <;> simp [clearScope, ClearScope.settings]
  | all => exact keeps_all ..

theorem clearFrame_keeps (f : Frame) (s : State) : Keeps (clearSettings f) s (portFrame 0x03 1 runClear f s) := by
  refine portFrame_keeps fun t => ?_
  unfold runClear clearSettings
  cases clearScopeOf (argField f.args 0 1) with
  | none => exact Keeps.refl ..
  | some scope => exact clearScope_keeps scope t

/-! ### Pins, links and time -/

theorem arrive_work (r : HostReq) (s : State) : Work s (arrive r s) := by
  unfold arrive
  split
  · exact violation_work r s
  split
  · refine Work.trans ?_ (violation_work r _)
    constructor <;> simp
  · constructor <;> simp

theorem useFree_keeps (l : List Setting) (n : Nat) (data : List Byte) (s : State) : Keeps l s (useFree n data s) := by
  unfold useFree
  split
  · exact Keeps.refl ..
  · constructor <;> simp

theorem routeResponse_keeps (l : List Setting) (tag : MemTag) (st : MemStatus) (data : List Byte) (s : State) :
    Keeps l s (routeResponse tag st data s) := by
  obtain ⟨n, hw⟩ := routeResponse_work tag st data s
  refine Keeps.trans ?_ (hw.keeps l)
  constructor <;> simp

theorem seqTick_work (s : State) : Work s (seqTick s) := by
  unfold seqTick
  split
  · split
    · exact Work.refl s
    split
    · constructor <;> simp
    · refine Work.trans ?_ (raise_work ..)
      constructor <;> simp
  all_goals exact Work.refl s

theorem tickAll_keeps (l : List Setting) (s : State) : Keeps l s (tickAll s) := by
  unfold tickAll
  split
  · exact Keeps.refl ..
  · refine Keeps.trans ?_ ((seqTick_work _).keeps l)
    constructor <;> simp [TimeBase.ticked]

theorem execReadReq_keeps (l : List Setting) (r : HostReq) (s : State) :
    Keeps l s (if s.resetHeld then s else arrive r s) := by
  split
  · exact Keeps.refl ..
  · exact (arrive_work r s).keeps l

theorem execWriteReq_keeps (l : List Setting) (tag : HostTag) (source : Source) (addr : Addr) (len : Nat) (data : List Byte)
    (s : State) {t : State} (h : execWriteReq tag source addr len data s = .next t) : Keeps l s t := by
  unfold execWriteReq at h
  obtain rfl := Host.Outcome.next.inj h
  split
  · exact Keeps.refl ..
  · exact (useFree_keeps ..).trans ((arrive_work ..).keeps l)

theorem execClassification_keeps (l : List Setting) (s : State) {t : State} (h : execClassification s = .next t) :
    Keeps l s t := by
  unfold execClassification at h
  obtain rfl := Host.Outcome.next.inj h
  split
  · exact Keeps.refl ..
  split
  · exact Keeps.refl ..
  · exact Keeps.refl ..
  · exact ((classifyHead_work ..).trans (settle_work _)).keeps l

theorem execCreditAnnouncement_keeps (l : List Setting) (n : Nat) (s : State) {t : State}
    (h : execCreditAnnouncement n s = .next t) : Keeps l s t := by
  unfold execCreditAnnouncement at h
  obtain rfl := Host.Outcome.next.inj h
  split
  · exact Keeps.refl ..
  · refine Keeps.trans ?_ ((settle_work _).keeps l)
    constructor <;> simp

theorem execHostCreditOffer_keeps (l : List Setting) (s : State) {t : State} (h : execHostCreditOffer s = .next t) :
    Keeps l s t := by
  unfold execHostCreditOffer at h
  obtain rfl := Host.Outcome.next.inj h
  split
  · exact Keeps.refl ..
  · constructor <;> simp

theorem execResetNRelease_keeps (l : List Setting) (csLow : Bool) (s : State) {t : State}
    (h : execResetNRelease csLow s = .next t) : Keeps l s t := by
  unfold execResetNRelease at h
  obtain rfl := Host.Outcome.next.inj h
  split
  · constructor <;> simp
  · exact Keeps.refl ..

theorem execEmptyFrame_keeps (l : List Setting) (n : Fin 8) (s : State) {t : State} (h : execEmptyFrame n s = .next t) :
    Keeps l s t := by
  unfold execEmptyFrame at h
  obtain rfl := Host.Outcome.next.inj h
  split
  · exact Keeps.refl ..
  · constructor <;> simp

/-! ### Every command -/

/-- Every command keeps the settings that are not its own. -/
theorem exec_keeps {c : Instr} {s t : State} (h : exec c s = .next t) : Keeps (settingsOf c) s t := by
  cases c with
  | pinReset => exact keeps_all s t
  | resetNRelease csLow => exact execResetNRelease_keeps _ csLow s h
  | hostCreditOffer => exact execHostCreditOffer_keeps _ s h
  | emptyFrame count => exact execEmptyFrame_keeps _ count s h
  | readReq => exact .of_next h (execReadReq_keeps ..)
  | writeReq tag source addr len data => exact execWriteReq_keeps _ tag source addr len data s h
  | classification => exact execClassification_keeps _ s h
  | creditAnnouncement count => exact execCreditAnnouncement_keeps _ count s h
  | prereadResponse | memoryResponse | checkReadResponse | restoreResponse | drainResponse | strayResponse =>
    exact .of_next h (routeResponse_keeps ..)
  | tick | stageExpiry => exact .of_next h (tickAll_keeps ..)
  | clearSession f | clearWindows f | clearEvents f | clearAll f => exact .of_next h (clearFrame_keeps f s)
  | engage => exact .of_next h (portFrame_keeps fun t => engaged_keeps true t)
  | bypass =>
    refine .of_next h (portFrame_keeps fun t => ?_)
    rw [done_state]
    split
    · exact toBypass_keeps t
    · exact Keeps.refl ..
  | winSet => exact .of_next h (portFrame_keeps fun t => runWinSet_keeps _ t)
  | winEnable | winDisable => exact .of_next h (portFrame_keeps fun t => runWinEnabled_keeps _ _ t)
  | seqSet => exact .of_next h (portFrame_keeps fun t => runSeqSet_keeps _ t)
  | seqLength => exact .of_next h (portFrame_keeps fun t => runSeqLength_keeps _ t)
  | seqFire => exact .of_next h (portFrame_keeps fun t => runSeqFire_keeps _ t)
  | sessionStart => exact .of_next h (portFrame_keeps fun t => runSessionStart_keeps _ t)
  | sessionStop => exact .of_next h (portFrame_keeps fun t => runSessionStop_keeps _ t)
  | ringRelease => exact .of_next h (portFrame_keeps fun t => runRingRelease_keeps _ _ t)
  | spillSet => exact .of_next h (portFrame_keeps fun t => runSpillSet_keeps _ _ t)
  | spillConsume => exact .of_next h (portFrame_keeps fun t => runSpillConsume_keeps _ _ t)
  | drainRestart => exact .of_next h (portFrame_keeps fun t => runDrainRestart_keeps _ t)
  | rollbackStart => exact .of_next h (portFrame_keeps fun t => runRollbackStart_keeps _ _ t)
  | rollbackAbort => exact .of_next h (portFrame_keeps fun t => runRollbackAbort_keeps _ t)
  | timePrescale | eventAck | eventEnable =>
    exact .of_next h (portFrame_keeps fun t => by constructor <;> simp [settingsOf, ownSettings, clearFrame])
  | faultRead => exact .of_next h (portFrame_keeps fun t => by constructor <;> simp)
  | winGet => exact .of_next h (portFrame_keeps_of_same _ fun t => by unfold runWinGet; split <;> rfl)
  | seqGet => exact .of_next h (portFrame_keeps_of_same _ fun t => by unfold runSeqGet; split <;> rfl)
  | holdRead => exact .of_next h (portFrame_keeps_of_same _ fun t => by unfold runHoldRead; split <;> rfl)
  | ringRead => exact .of_next h (portFrame_keeps_of_same _ fun t => runRingRead_state _ t)
  | _ => exact .of_next h (portFrame_keeps_of_same _ fun _ => rfl)

/-- Settles O59: each setting is changed by its own commands and by the scopes of CLEAR that hold it, which its clause
names. -/
theorem settingsEventsAndGuardsStay : Obligations.SettingsEventsAndGuardsStay := by
  constructor
  · intro c s t h hreset
    refine ⟨fun own clear => (exec_keeps h).windows (not_mem_settingsOf ?_),
      fun own clear => (exec_keeps h).engaged (not_mem_settingsOf ?_),
      fun own clear => (exec_keeps h).prescale (not_mem_settingsOf ?_),
      fun own clear => (exec_keeps h).enabled (not_mem_settingsOf ?_),
      fun own clear => (exec_keeps h).stages (not_mem_settingsOf ?_),
      fun own clear => (exec_keeps h).policy (not_mem_settingsOf ?_)⟩
    all_goals
      refine ⟨?_, fun f scope hf hb => ?_⟩
      · unfold ownSettings
        split <;> simp_all
      · rw [clearFrame_eq_some] at hf
        cases scope <;> simp_all [ClearScope.byte, ClearScope.settings]
  · intro c s t h wf hreset hall
    refine ⟨fun own => (exec_keeps h).raised (not_mem_settingsOf ?_), fun own => (exec_keeps h).guards (not_mem_settingsOf ?_)⟩
    all_goals
      refine ⟨?_, fun f scope hf hb => ?_⟩
      · unfold ownSettings
        split <;> simp_all
      · have hrow := eq_row_of_wellFormed wf hf hb
        cases scope <;> simp_all [ClearScope.row, ClearScope.settings]

end Sys2Proof.Machine
end

section
/-! The laws of windows, events and the port at every step: stored windows in range, unassigned event bits zero, and a result
held with OK only. -/

namespace Sys2Proof.Machine

/-! ### Windows -/

theorem reset_inRange : Window.reset.inRange := by unfold Window.inRange; decide

theorem windowLaw_of_same {s t : State} (hs : s.WindowLaw) (h : t.windows = s.windows) : t.WindowLaw := fun i => by
  rw [State.window, h]
  exact hs i

theorem windowLaw_reset {s : State} (h : s.windows = Vector.replicate 16 Window.reset) : s.WindowLaw := fun i => by
  have hi : s.window i = Window.reset := by
    rw [State.window, h, Vector.getElem?_replicate]
    split <;> rfl
  rw [hi]
  exact reset_inRange

/-- The window at an index after a change of one record: the new record or the old one. -/
theorem window_setWindow (s : State) (i j : Nat) (w : Window) :
    (s.setWindow i w).window j = w ∨ (s.setWindow i w).window j = s.window j := by
  simp only [State.window, State.setWindow, Vector.getElem?_setIfInBounds]
  by_cases hij : i = j
  · subst hij
    by_cases hi : i < 16
    · simp [hi]
    · simp [hi]
  · simp [hij]

theorem windowLaw_setWindow {s : State} {i : Nat} {w : Window} (hs : s.WindowLaw) (hw : w.inRange) :
    (s.setWindow i w).WindowLaw := fun j => by
  rcases window_setWindow s i j w with h | h
  · rw [h]; exact hw
  · rw [h]; exact hs j

/-- A value cut to E bytes is below 256 to the power E (R4). -/
theorem cut_toNat_lt (e : ElemSize) (v : BitVec 64) : (e.cut v).toNat < 2 ^ (8 * e.bytes) := by
  have hpos : 0 < 2 ^ (8 * e.bytes) := Nat.two_pow_pos _
  have hv : v = BitVec.ofNat 64 v.toNat := by simp
  rw [hv, cut_ofNat, BitVec.toNat_ofNat]
  exact Nat.lt_of_le_of_lt (Nat.mod_le _ _) (Nat.mod_lt _ hpos)

/-- The window that a WIN_SET stores is in range (R3, R4, R14). -/
theorem windowArg_inRange {args : List Byte} {w : Window} (h : windowArg args = some w) : w.inRange := by
  obtain ⟨hok, cond, elem, rec, guard, -, -, -, -, rfl⟩ := windowArg_eq_some.1 h
  have hbase : (BitVec.ofNat 40 (argField args 1 5)).toNat = argField args 1 5 := by
    have := argField_lt args 1 5
    rw [BitVec.toNat_ofNat]
    omega
  unfold windowNumbersBad at hok
  refine ⟨?_, ?_, ?_, ?_, ?_, ?_, ?_, cut_toNat_lt elem _, cut_toNat_lt elem _⟩ <;> simp only [windowOfArgs, hbase] <;> omega

theorem runWinSet_windowLaw (args : List Byte) {s : State} (hs : s.WindowLaw) : (runWinSet args s).state.WindowLaw := by
  unfold runWinSet
  split
  · exact hs
  split
  · exact hs
  split
  next w hw => exact windowLaw_setWindow hs (windowArg_inRange hw)
  next => exact hs

theorem runWinEnabled_windowLaw (b : Bool) (args : List Byte) {s : State} (hs : s.WindowLaw) :
    (runWinEnabled b args s).state.WindowLaw := by
  unfold runWinEnabled
  split
  · exact hs
  · exact windowLaw_setWindow hs (hs (argField args 0 1))

/-- A clear of the windows, or of all, leaves the window table at reset, and another clear leaves it as it is (R18, R169). -/
theorem clearScope_windowLaw (scope : ClearScope) {s : State} (hs : s.WindowLaw) : (clearScope scope s).WindowLaw := by
  cases scope with
  | session => exact windowLaw_of_same hs ((clearScope_keeps .session s).windows (by simp [ClearScope.settings]))
  | windows => exact windowLaw_reset rfl
  | events => exact windowLaw_of_same hs rfl
  | all =>
    refine windowLaw_reset ((settle_work _).windows.trans ?_)
    exact ((clearSessionWork_keeps drainClearAll_work _).windows (by simp)).trans rfl

theorem runClear_windowLaw (args : List Byte) {s : State} (hs : s.WindowLaw) : (runClear args s).state.WindowLaw := by
  unfold runClear
  split
  · exact clearScope_windowLaw _ hs
  · exact hs

theorem portFrame_windowLaw {code : Byte} {argc : Nat} {run : List Byte → State → Reply} {f : Frame} {s : State}
    (hs : s.WindowLaw) (h : ∀ t : State, t.WindowLaw → (run f.args t).state.WindowLaw) :
    (portFrame code argc run f s).WindowLaw := portFrame_preserves (fun _ _ ht => ht) hs h

theorem windows_mem_ownSettings {c : Instr} (h : .windows ∈ ownSettings c) :
    c = .pinReset ∨ ∃ f, c = .winSet f ∨ c = .winEnable f ∨ c = .winDisable f := by
  cases c <;> simp_all [ownSettings]

/-- Every command keeps the windows in range: the commands that leave the table alone, and the ones that write it. -/
theorem exec_windowLaw {c : Instr} {s t : State} (hs : s.WindowLaw) (h : exec c s = .next t) : t.WindowLaw := by
  by_cases hk : .windows ∈ settingsOf c
  · cases hf : clearFrame c with
    | some f =>
      rcases clearFrame_eq_some.1 hf with rfl | rfl | rfl | rfl <;>
        exact Host.Outcome.next.inj h ▸ portFrame_windowLaw hs fun t => runClear_windowLaw f.args
    | none =>
      rcases windows_mem_ownSettings (by simpa [settingsOf, hf] using hk) with rfl | ⟨f, rfl | rfl | rfl⟩
      · exact Host.Outcome.next.inj h ▸ windowLaw_reset rfl
      · exact Host.Outcome.next.inj h ▸ portFrame_windowLaw hs fun t => runWinSet_windowLaw _
      · exact Host.Outcome.next.inj h ▸ portFrame_windowLaw hs fun t => runWinEnabled_windowLaw _ _
      · exact Host.Outcome.next.inj h ▸ portFrame_windowLaw hs fun t => runWinEnabled_windowLaw _ _
  · exact windowLaw_of_same hs ((exec_keeps h).windows hk)

end Sys2Proof.Machine
end

section
/-! The unassigned bits of the two event sets: every operation of the part leaves them as they are. -/

namespace Sys2Proof.Machine

/-- The members of an event set that name no event (11.2). -/
def unassigned (m : Set16) : Set16 := m &&& ~~~assignedEvents

/-! ### Raises and faults -/

theorem event_unassigned (e : Event) : unassigned e.set = 0 := by cases e <;> decide

@[simp] theorem unassigned_or_event (m : Set16) (e : Event) : unassigned (m ||| e.set) = unassigned m := by
  have hor : unassigned (m ||| e.set) = unassigned m ||| unassigned e.set := by
    ext i hi
    simp [unassigned, Bool.and_or_distrib_right]
  rw [hor, event_unassigned]
  exact BitVec.or_zero

@[simp] theorem raiseIf_unassigned (c : Bool) (e : Event) (s : State) :
    unassigned (raiseIf c e s).events.pending = unassigned s.events.pending := by
  cases c <;> simp [raiseIf]

@[simp] theorem offerFault_unassigned (k : FaultKind) (p : FaultPort) (t : MemTag) (a : Option Addr) (s : State) :
    unassigned (offerFault k p t a s).events.pending = unassigned s.events.pending := by
  unfold offerFault; split <;> rfl

@[simp] theorem violation_unassigned (r : HostReq) (s : State) :
    unassigned (violation r s).events.pending = unassigned s.events.pending := by simp [violation]

/-! ### Operations that leave the event unit alone -/

theorem HoldWork.unassigned {s t : State} (h : HoldWork s t) :
    unassigned t.events.pending = unassigned s.events.pending := by rw [h.events]

@[simp] theorem release_unassigned (i : Nat) (s : State) :
    unassigned (release i s).events.pending = unassigned s.events.pending :=
  (release_holdWork i s).unassigned

@[simp] theorem releaseChecking_unassigned (s : State) :
    unassigned (releaseChecking s).events.pending = unassigned s.events.pending :=
  (releaseChecking_holdWork s).unassigned

@[simp] theorem queueRestore_unassigned (s : State) :
    unassigned (queueRestore s).events.pending = unassigned s.events.pending :=
  (queueRestore_holdWork s).unassigned

@[simp] theorem claimLine_unassigned (a : Addr) (s : State) :
    unassigned (claimLine a s).events.pending = unassigned s.events.pending :=
  (claimLine_holdWork a s).unassigned

@[simp] theorem finishAhead_unassigned (i : Nat) (w : HeldWrite) (s : State) :
    unassigned (finishAhead i w s).events.pending = unassigned s.events.pending := (finishAhead_holdWork i w s).unassigned

@[simp] theorem park_unassigned (i : Nat) (x : Parked) (s : State) :
    unassigned (park i x s).events.pending = unassigned s.events.pending :=
  (park_holdWork i x s).unassigned

@[simp] theorem releaseSlots_unassigned (b : Bool) (l : List Nat) (s : State) :
    unassigned (releaseSlots b l s).events.pending = unassigned s.events.pending := (releaseSlots_does b l s).unassigned

@[simp] theorem settle_unassigned (s : State) : unassigned (settle s).events.pending = unassigned s.events.pending := by
  rw [(settle_grantWork s).events]

@[simp] theorem stopSession_unassigned (r : StopReason) (s : State) :
    unassigned (stopSession r s).events.pending = unassigned s.events.pending := by rw [stopSession_events]

@[simp] theorem takeEntry_unassigned (i : Nat) (w : HeldWrite) (s : State) :
    unassigned (takeEntry i w s).events.pending = unassigned s.events.pending := by
  unfold takeEntry; split <;> rfl

/-! ### Records -/

@[simp] theorem pushRec_unassigned (discard : Bool) (body : RecBody) (time : Time) (s : State) :
    unassigned (pushRec discard body time s).events.pending = unassigned s.events.pending := by simp [pushRec]

@[simp] theorem exhaust_unassigned (s : State) :
    unassigned (exhaust s).events.pending = unassigned s.events.pending := by simp [exhaust]

@[simp] theorem appendRec_unassigned (discard : Bool) (body : RecBody) (time : Time) (s : State) :
    unassigned (appendRec discard body time s).events.pending = unassigned s.events.pending := by
  unfold appendRec; split <;> simp

@[simp] theorem appendGap_unassigned (n : Nat) (s : State) :
    unassigned (appendGap n s).events.pending = unassigned s.events.pending := by
  simp [appendGap]

@[simp] theorem appendSkip_unassigned (body : RecBody) (time : Time) (s : State) :
    unassigned (appendSkip body time s).events.pending = unassigned s.events.pending := by
  unfold appendSkip
  dsimp only
  repeat' split
  all_goals simp

@[simp] theorem appendHold_unassigned (d : Draft) (s : State) :
    unassigned (appendHold d s).1.events.pending = unassigned s.events.pending := by
  unfold appendHold
  dsimp only
  repeat' split
  all_goals simp

@[simp] theorem serveSlot_unassigned (i : Nat) (w : HeldWrite) (d : Draft) (rest : List Nat) (s : State) :
    unassigned (serveSlot i w d rest s).events.pending = unassigned s.events.pending := by simp [serveSlot]

theorem serveList_unassigned :
    ∀ (l : List Nat) (s : State), unassigned (serveList l s).events.pending = unassigned s.events.pending
  | [], _ => rfl
  | i :: rest, s => by
    unfold serveList
    split
    · split
      · split
        · simp [serveList_unassigned rest]
        · dsimp only
          split <;> simp [serveList_unassigned rest]
      all_goals rfl
    · rfl

@[simp] theorem serveSlots_unassigned (s : State) : unassigned (serveSlots s).events.pending = unassigned s.events.pending :=
  serveList_unassigned ..

@[simp] theorem appendArmed_unassigned (body : RecBody) (time : Time) (s : State) :
    unassigned (appendArmed body time s).events.pending = unassigned s.events.pending := by
  unfold appendArmed; split <;> simp

@[simp] theorem appendFired_unassigned (body : RecBody) (time : Time) (s : State) :
    unassigned (appendFired body time s).events.pending = unassigned s.events.pending := by
  unfold appendFired
  dsimp only
  repeat' split
  all_goals simp

@[simp] theorem appendRefused_unassigned (info : WriteInfo) (s : State) :
    unassigned (appendRefused info s).events.pending = unassigned s.events.pending := by
  unfold appendRefused; split <;> simp

@[simp] theorem appendWrite_unassigned (d : Draft) (s : State) :
    unassigned (appendWrite d s).1.events.pending = unassigned s.events.pending := by
  unfold appendWrite
  repeat' split
  all_goals simp

@[simp] theorem fire_unassigned (c : Cause) (s : State) :
    unassigned (fire c s).events.pending = unassigned s.events.pending := by
  unfold fire
  dsimp only
  repeat' split
  all_goals simp

@[simp] theorem takeCount_unassigned (s : State) :
    unassigned (takeCount s).events.pending = unassigned s.events.pending := by
  unfold takeCount
  repeat' split
  all_goals simp

@[simp] theorem countStep_unassigned (b : Bool) (s : State) :
    unassigned (countStep b s).events.pending = unassigned s.events.pending := by
  unfold countStep; split <;> simp

/-! ### Resolution -/

@[simp] theorem resolveRefused_unassigned (i : Nat) (w : HeldWrite) (old : Option (List Byte)) (hits : Set16) (s : State) :
    unassigned (resolveRefused i w old hits s).events.pending = unassigned s.events.pending := by
  unfold resolveRefused
  dsimp only
  split <;> simp

@[simp] theorem resolveAhead_unassigned (i : Nat) (line : Addr) (w : HeldWrite) (old : Option (List Byte))
    (parked : List Parked) (hits : Set16) (s : State) :
    unassigned (resolveAhead i line w old parked hits s).events.pending = unassigned s.events.pending := by
  unfold resolveAhead
  dsimp only
  split
  · have h := appendWrite_unassigned { time := s.time.counter, info := recordInfo w (s.recordSet hits) old } s
    split
    next s1 hs => rw [hs] at h; exact h
    next s1 hs => rw [hs] at h; simpa using h
  · simp

@[simp] theorem resolve_unassigned (i : Nat) (line : Addr) (w : HeldWrite) (old : Option (List Byte)) (parked : List Parked)
    (s : State) : unassigned (resolve i line w old parked s).events.pending = unassigned s.events.pending := by
  unfold resolve
  dsimp only
  split <;> simp

/-! ### Rollback -/

@[simp] theorem endRollback_unassigned (r : RbResult) (s : State) :
    unassigned (endRollback r s).events.pending = unassigned s.events.pending := by simp [endRollback]

theorem visit_unassigned : ∀ (n : Nat) (s : State), unassigned (visit n s).events.pending = unassigned s.events.pending
  | 0, s => by unfold visit; split <;> simp
  | n + 1, s => by unfold visit; split <;> simp [visit_unassigned n]

@[simp] theorem advance_unassigned (s : State) : unassigned (advance s).events.pending = unassigned s.events.pending := by
  unfold advance; split <;> simp [visit_unassigned]

@[simp] theorem conflict_unassigned (s : State) : unassigned (conflict s).events.pending = unassigned s.events.pending := by
  unfold conflict; dsimp only; split <;> simp

@[simp] theorem rollbackFault_unassigned (a : Addr) (s : State) :
    unassigned (rollbackFault a s).events.pending = unassigned s.events.pending := by
  simp only [rollbackFault, offerFault_unassigned]

@[simp] theorem endAborting_unassigned (s : State) :
    unassigned (endAborting s).events.pending = unassigned s.events.pending := by
  simp only [endAborting, endRollback_unassigned]

@[simp] theorem checkResponded_unassigned (a : Addr) (st : MemStatus) (line : List Byte) (s : State) :
    unassigned (checkResponded a st line s).events.pending = unassigned s.events.pending := by
  unfold checkResponded
  repeat' split
  all_goals simp

@[simp] theorem restoreResponded_unassigned (a : Addr) (st : MemStatus) (s : State) :
    unassigned (restoreResponded a st s).events.pending = unassigned s.events.pending := by
  unfold restoreResponded
  repeat' split
  all_goals simp

@[simp] theorem endEarly_unassigned (why : RbPending) (s : State) :
    unassigned (endEarly why s).events.pending = unassigned s.events.pending := by
  unfold endEarly
  repeat' split
  all_goals simp

/-! ### The drain -/

@[simp] theorem drainQuiesce_unassigned (s : State) :
    unassigned (drainQuiesce s).events.pending = unassigned s.events.pending := by
  unfold drainQuiesce
  repeat' split
  all_goals rfl

@[simp] theorem retireAll_unassigned (s : State) :
    unassigned (retireAll s).events.pending = unassigned s.events.pending := by
  obtain ⟨k, items, rest, -, hr, -⟩ := retire_does s.drain.inFlight s rfl
  have he : (retire s.drain.inFlight s).events = s.events := by rw [hr]
  simp [retireAll, he]

@[simp] theorem drainResponded_unassigned (o : Outstanding) (st : MemStatus) (s : State) :
    unassigned (drainResponded o st s).events.pending = unassigned s.events.pending := by
  unfold drainResponded
  dsimp only
  repeat' split
  all_goals simp

/-! ### Responses, classification and time -/

@[simp] theorem setOutcome_unassigned (t : HostTag) (o : RecOutcome) (s : State) :
    unassigned (setOutcome t o s).events.pending = unassigned s.events.pending := by
  unfold setOutcome; split <;> rfl

@[simp] theorem hostResponded_unassigned (m : MemReq) (st : MemStatus) (data : List Byte) (s : State) :
    unassigned (hostResponded m st data s).events.pending = unassigned s.events.pending := by
  unfold hostResponded
  repeat' split
  all_goals simp

@[simp] theorem prereadResponded_unassigned (i : Nat) (st : MemStatus) (data : List Byte) (s : State) :
    unassigned (prereadResponded i st data s).events.pending = unassigned s.events.pending := by
  unfold prereadResponded
  repeat' split
  all_goals simp

@[simp] theorem ownerResponded_unassigned (o : Outstanding) (st : MemStatus) (data : List Byte) (s : State) :
    unassigned (ownerResponded o st data s).events.pending = unassigned s.events.pending := by
  unfold ownerResponded
  repeat' split
  all_goals simp

@[simp] theorem useFree_events (n : Nat) (data : List Byte) (s : State) : (useFree n data s).events = s.events := by
  unfold useFree; split <;> rfl

@[simp] theorem responseFree_events (m : MemReq) (st : MemStatus) (data : List Byte) (s : State) :
    (responseFree m st data s).events = s.events := by
  unfold responseFree; split <;> simp

@[simp] theorem routeResponse_unassigned (tag : MemTag) (st : MemStatus) (data : List Byte) (s : State) :
    unassigned (routeResponse tag st data s).events.pending = unassigned s.events.pending := by
  unfold routeResponse
  repeat' split
  all_goals simp [stray]

@[simp] theorem classifyHead_unassigned (r : HostReq) (s : State) :
    unassigned (classifyHead r s).events.pending = unassigned s.events.pending := by
  unfold classifyHead
  repeat' split
  all_goals simp

@[simp] theorem arrive_unassigned (r : HostReq) (s : State) :
    unassigned (arrive r s).events.pending = unassigned s.events.pending := by
  unfold arrive
  repeat' split
  all_goals simp

@[simp] theorem tickAll_unassigned (s : State) : unassigned (tickAll s).events.pending = unassigned s.events.pending := by
  unfold tickAll seqTick
  repeat' split
  all_goals simp

/-! ### Commands of the port -/

/-- CLEAR SESSION's work leaves the event sets to the rollback's early end, whatever it does to the drain. -/
theorem clearSessionWork_unassigned {dc : State → State} (hd : ∀ s, (dc s).events = s.events) (s : State) :
    unassigned (clearSessionWork dc s).events.pending = unassigned s.events.pending := by simp [clearSessionWork, hd]

theorem drainClearSession_events (s : State) : (drainClearSession s).events = s.events := by
  rw [drainClearSession_same]

theorem drainClearAll_events (s : State) : (drainClearAll s).events = s.events := by rw [drainClearAll_same]

/-- A clear keeps the unassigned bits zero (R161). -/
theorem clearScope_unassigned (scope : ClearScope) {s : State} (hs : unassigned s.events.pending = 0) :
    unassigned (clearScope scope s).events.pending = 0 := by
  cases scope with
  | session => simpa [clearScope, clearSessionWork_unassigned drainClearSession_events] using hs
  | windows => exact hs
  | events => simp [clearScope, Events.reset, unassigned]
  | all =>
    simp only [clearScope, settle_unassigned, clearSessionWork_unassigned drainClearAll_events]
    rfl

@[simp] theorem startSession_unassigned (a : StartArgs) (s : State) :
    unassigned (startSession a s).events.pending = unassigned s.events.pending := by
  unfold startSession; split <;> simp

@[simp] theorem spillSet_unassigned (base size watermark : Nat) (s : State) :
    unassigned (spillSet base size watermark s).events.pending = unassigned s.events.pending := by
  unfold spillSet; split <;> simp

@[simp] theorem startRollback_unassigned (mode : RbMode) (first last : Nat) (s : State) :
    unassigned (startRollback mode first last s).events.pending = unassigned s.events.pending := by
  simp [startRollback, visit_unassigned]

@[simp] theorem toBypass_unassigned (s : State) : unassigned (toBypass s).events.pending = unassigned s.events.pending := by
  simp [toBypass]

/-- A frame keeps the unassigned bits zero where its command does. -/
theorem portFrame_unassigned {code : Byte} {argc : Nat} {run : List Byte → State → Reply} {f : Frame} {s : State}
    (hs : unassigned s.events.pending = 0)
    (h : ∀ t : State, unassigned t.events.pending = 0 → unassigned (run f.args t).state.events.pending = 0) :
    unassigned (portFrame code argc run f s).events.pending = 0 :=
  portFrame_preserves (P := fun t => unassigned t.events.pending = 0) (fun _ _ ht => ht) hs h

/-- EVENT_ACK takes members away (R156). -/
theorem unassigned_ack {m : Set16} (h : unassigned m = 0) (a : Set16) : unassigned (m &&& a) = 0 := by
  have hand : unassigned (m &&& a) = unassigned m &&& a := by
    ext i hi
    simp [unassigned, Bool.and_right_comm]
  rw [hand, h]
  exact BitVec.zero_and

/-- The set of an EVENT_ENABLE is cut to the assigned bits (R155). -/
theorem unassigned_eventArg (args : List Byte) : unassigned (eventArg args) = 0 := by
  ext i hi
  simp [unassigned, eventArg, Bool.and_assoc]

/-! ### Every command -/

/-- No command makes a bit pending that names no event: every block raises events only. -/
theorem exec_unassigned_pending {c : Instr} {s t : State} (hs : unassigned s.events.pending = 0) (h : exec c s = .next t) :
    unassigned t.events.pending = 0 := by
  have next : ∀ {u}, unassigned u.events.pending = 0 → (.next u : Host.Outcome State Fault Refusal) = .next t →
    unassigned t.events.pending = 0 := fun hu e => Host.Outcome.next.inj e ▸ hu
  cases c with
  | pinReset => exact next (by simp [State.reset, Events.reset, unassigned]) h
  | resetNRelease => exact next (by split <;> exact hs) h
  | hostCreditOffer => exact next (by split <;> exact hs) h
  | emptyFrame => exact next (by split <;> exact hs) h
  | readReq => exact next (by split <;> simp [hs]) h
  | writeReq => exact next (by split <;> simp [hs]) h
  | creditAnnouncement => exact next (by split <;> simp [hs]) h
  | classification => exact next (by split <;> [skip; split] <;> simp [hs]) h
  | tick | stageExpiry => exact next (by rw [tickAll_unassigned]; exact hs) h
  | prereadResponse | memoryResponse | checkReadResponse | restoreResponse | drainResponse | strayResponse =>
    exact next (by rw [routeResponse_unassigned]; exact hs) h
  | clearSession | clearWindows | clearEvents | clearAll =>
    refine next (portFrame_unassigned hs fun t ht => ?_) h
    unfold runClear
    split
    · exact clearScope_unassigned _ ht
    · exact ht
  | eventAck => exact next (portFrame_unassigned hs fun t ht => unassigned_ack ht _) h
  | bypass =>
    refine next (portFrame_unassigned hs fun t ht => ?_) h
    rw [done_state]
    split
    · simpa using ht
    · exact ht
  | winSet | winGet | winEnable | winDisable | holdRead | seqSet | seqGet | seqLength | seqFire | sessionStart | sessionStop
  | ringRead | ringRelease | spillSet | spillConsume | drainRestart | rollbackStart | rollbackAbort =>
    -- each refusal leaves the state, and each effect is an operation of the layers above
    refine next (portFrame_unassigned hs fun t ht => ?_) h
    simp only [runWinSet, runWinGet, runWinEnabled, runHoldRead, runSeqSet, runSeqGet, runSeqLength, runSeqFire,
      runSessionStart, runSessionStop, runRingRead, runRingRelease, runSpillSet, runSpillConsume, runDrainRestart,
      runRollbackStart, runRollbackAbort]
    repeat' split
    all_goals simpa using ht
  | _ => exact next (portFrame_unassigned hs fun t ht => ht) h

/-- A clear keeps the enabled set or empties it (R161). -/
theorem clearScope_unassigned_enabled (scope : ClearScope) {s : State} (hs : unassigned s.events.enabled = 0) :
    unassigned (clearScope scope s).events.enabled = 0 := by
  cases scope with
  | session =>
    rw [(clearScope_keeps .session s).enabled (by simp [ClearScope.settings])]
    exact hs
  | windows => exact hs
  | events => simp [clearScope, Events.reset, unassigned]
  | all =>
    rw [clearScope, (settle_work _).enabled, (clearSessionWork_keeps drainClearAll_work _).enabled (by simp)]
    simp [Events.reset, unassigned]

theorem runClear_unassigned_enabled (args : List Byte) {s : State} (hs : unassigned s.events.enabled = 0) :
    unassigned (runClear args s).state.events.enabled = 0 := by
  unfold runClear
  split
  · exact clearScope_unassigned_enabled _ hs
  · exact hs

theorem enabledEvents_mem_ownSettings {c : Instr} (h : .enabledEvents ∈ ownSettings c) :
    c = .pinReset ∨ ∃ f, c = .eventEnable f := by
  cases c <;> simp_all [ownSettings]

/-- The enabled set is replaced by EVENT_ENABLE, cut to the assigned bits, and emptied by a clear and by pin reset (R155,
R161). -/
theorem exec_unassigned_enabled {c : Instr} {s t : State} (hs : unassigned s.events.enabled = 0) (h : exec c s = .next t) :
    unassigned t.events.enabled = 0 := by
  have frame : ∀ {code argc run f}, portFrame code argc run f s = t →
      (∀ u : State, unassigned u.events.enabled = 0 → unassigned (run f.args u).state.events.enabled = 0) →
      unassigned t.events.enabled = 0 := fun e hrun =>
    e ▸ portFrame_preserves (P := fun u => unassigned u.events.enabled = 0) (fun _ _ hu => hu) hs hrun
  by_cases hk : .enabledEvents ∈ settingsOf c
  · cases hf : clearFrame c with
    | some f =>
      rcases clearFrame_eq_some.1 hf with rfl | rfl | rfl | rfl <;>
        exact frame (Host.Outcome.next.inj h) fun u => runClear_unassigned_enabled f.args
    | none =>
      rcases enabledEvents_mem_ownSettings (by simpa [settingsOf, hf] using hk) with rfl | ⟨f, rfl⟩
      · have hreset : unassigned State.reset.events.enabled = 0 := by simp [State.reset, Events.reset, unassigned]
        exact Host.Outcome.next.inj h ▸ hreset
      · exact frame (Host.Outcome.next.inj h) fun u _ => unassigned_eventArg _
  · rw [(exec_keeps h).enabled hk]
    exact hs

/-! ### The port -/

/-- A result is held with OK only (R162). -/
def Port.HoldsWithOk (p : Port) : Prop := p.heldOutcome ≠ .ok → p.heldResult = []

theorem portFrame_holdsWithOk {code : Byte} {argc : Nat} {run : List Byte → State → Reply} {f : Frame} {s : State}
    (hs : s.port.HoldsWithOk) : (portFrame code argc run f s).port.HoldsWithOk := by
  cases hr : s.resetHeld with
  | true => rwa [portFrame_held hr]
  | false =>
    by_cases hf : argc ≤ f.args.length
    · rw [portFrame_run hr hf]
      exact fun ho => if_neg ho
    · rw [portFrame_short hr (by omega)]
      exact fun _ => rfl

theorem Work.holdsWithOk {s t : State} (h : Work s t) (hs : s.port.HoldsWithOk) : t.port.HoldsWithOk := by rwa [h.port]

theorem routeResponse_port (tag : MemTag) (st : MemStatus) (data : List Byte) (s : State) :
    (routeResponse tag st data s).port = s.port := by
  obtain ⟨n, hw⟩ := routeResponse_work tag st data s
  exact hw.port

theorem tickAll_port (s : State) : (tickAll s).port = s.port := by
  unfold tickAll
  split
  · rfl
  · exact (seqTick_work _).port

/-- Every command keeps a result held with OK only: a frame answers anew, and nothing else changes what is held. -/
theorem exec_holdsWithOk {c : Instr} {s t : State} (hs : s.port.HoldsWithOk) (h : exec c s = .next t) :
    t.port.HoldsWithOk := by
  have next : ∀ {u : State}, u.port.HoldsWithOk → (.next u : Host.Outcome State Fault Refusal) = .next t →
    t.port.HoldsWithOk := fun hu e => Host.Outcome.next.inj e ▸ hu
  cases c with
  | pinReset => exact next (fun _ => rfl) h
  | resetNRelease => exact next (by split <;> exact hs) h
  | hostCreditOffer => exact next (by split <;> exact hs) h
  | emptyFrame =>
    refine next ?_ h
    split
    · exact hs
    · rw [during_rise]; exact hs
  | readReq =>
    refine next ?_ h
    split
    · exact hs
    · exact (arrive_work ..).holdsWithOk hs
  | writeReq =>
    refine next ?_ h
    split
    · exact hs
    · exact (arrive_work ..).holdsWithOk (by unfold useFree; split <;> exact hs)
  | creditAnnouncement =>
    refine next ?_ h
    split
    · exact hs
    · exact (settle_work _).holdsWithOk hs
  | classification =>
    refine next ?_ h
    split
    · exact hs
    split
    · exact hs
    · exact hs
    · exact ((classifyHead_work ..).trans (settle_work _)).holdsWithOk hs
  | tick | stageExpiry => exact next (by rwa [tickAll_port]) h
  | prereadResponse | memoryResponse | checkReadResponse | restoreResponse | drainResponse | strayResponse =>
    exact next (by rwa [routeResponse_port]) h
  | _ => exact next (portFrame_holdsWithOk hs) h

/-! ### Every step -/

/-- A step is one command, or on an empty queue a part of a tick (log entries 1 and 2). -/
theorem step_cases {s t : State} (h : step s = .next t) :
    t = refclkPeriod s ∨ ∃ c rest, exec c { s with pending := rest } = .next t := by
  unfold step at h
  split at h
  · exact .inl (Host.Outcome.next.inj h).symm
  next c rest _ => exact .inr ⟨c, rest, h⟩

theorem refclkPeriod_keeps (l : List Setting) (s : State) : Keeps l s (refclkPeriod s) := by
  unfold refclkPeriod
  split
  · exact Keeps.refl ..
  split
  · constructor <;> simp
  · exact tickAll_keeps ..

theorem refclkPeriod_port (s : State) : (refclkPeriod s).port = s.port := by
  unfold refclkPeriod
  split
  · rfl
  split
  · rfl
  · exact tickAll_port s

theorem refclkPeriod_unassigned (s : State) :
    unassigned (refclkPeriod s).events.pending = unassigned s.events.pending := by
  unfold refclkPeriod
  split
  · rfl
  split
  · rfl
  · exact tickAll_unassigned s

theorem answerLaw_iff (s : State) : s.AnswerLaw ↔
    unassigned s.events.pending = 0 ∧ unassigned s.events.enabled = 0 ∧ s.port.HoldsWithOk := Iff.rfl

/-- Settles O58: each of the four laws is kept by every command and by a period of REFCLK. -/
theorem windowAndAnswerLawsKept : Obligations.WindowAndAnswerLawsKept := by
  rintro s t ⟨hw, ha⟩ h
  obtain ⟨hpend, hen, hport⟩ := (answerLaw_iff s).1 ha
  rw [answerLaw_iff]
  rcases step_cases h with rfl | ⟨c, rest, hc⟩
  · have keeps := refclkPeriod_keeps [] s
    refine ⟨windowLaw_of_same hw (keeps.windows (by simp)), ?_, ?_, ?_⟩
    · rw [refclkPeriod_unassigned]; exact hpend
    · rw [keeps.enabled (by simp)]; exact hen
    · rw [refclkPeriod_port]; exact hport
  · have hw' : ({ s with pending := rest } : State).WindowLaw := hw
    exact ⟨exec_windowLaw hw' hc, exec_unassigned_pending (s := { s with pending := rest }) hpend hc,
      exec_unassigned_enabled (s := { s with pending := rest }) hen hc,
      exec_holdsWithOk (s := { s with pending := rest }) hport hc⟩

end Sys2Proof.Machine
end

section
/-! The hold table, operation by operation: how an entry is found, and what each case of a claim, of an offer to the
claimants, of a walk, of a release and of the classification does (R22 to R25, R34, R36). -/

namespace Sys2Proof.Machine

/-! ### Faults -/

/-- A fault offered fills an EMPTY record and sets the more flag of a FULL one (R159). -/
theorem offerFault_eq (k : FaultKind) (p : FaultPort) (t : MemTag) (a : Option Addr) (s : State) :
    offerFault k p t a s =
      { s with events := { s.events with fault := offered s.events.fault k p t a s.time.counter } } := by
  unfold offerFault offered
  cases s.events.fault <;> rfl

/-! ### Entries by number and by line -/

theorem entry_of_ge (s : State) {i : Nat} (h : 8 ≤ i) : s.entry i = .free := by
  rw [State.entry, Vector.getElem?_eq_none (by omega)]
  rfl

theorem line_lt {s : State} {i : Nat} {a : Addr} (h : (s.entry i).line? = some a) : i < 8 := by
  by_contra hi
  simp [entry_of_ge s (Nat.le_of_not_lt hi), HoldEntry.line?] at h

theorem ownerOf_eq_some {s : State} {a : Addr} {i : Nat} (h : s.ownerOf a = some i) : ∃ o l, s.entry i = .owned a o l := by
  obtain ⟨-, hline, -⟩ := findEntry_eq_some h
  cases he : s.entry i with
  | free => simp [he, HoldEntry.line?] at hline
  | owned b o l =>
    have : b = a := by simpa [he, HoldEntry.line?] using hline
    exact ⟨o, l, by rw [this]⟩

theorem ownerOf_eq_none_iff {s : State} {a : Addr} : s.ownerOf a = none ↔ ∀ j, (s.entry j).line? ≠ some a := by
  constructor
  · exact fun h j hj => by simpa [hj] using findEntry_eq_none h (line_lt hj)
  · exact fun h => findEntry_none fun j _ => by simpa using h j

theorem freeEntry_eq_some {s : State} {i : Nat} (h : s.freeEntry = some i) : i < 8 ∧ s.entry i = .free := by
  obtain ⟨hi, hfree, -⟩ := findEntry_eq_some h
  refine ⟨hi, ?_⟩
  cases he : s.entry i with
  | free => rfl
  | owned => simp [he, HoldEntry.isFree] at hfree

section
variable {s : State} {a : Addr} {i : Nat}

theorem ownerOf_lowest {o : HoldOwner} {l : List Parked} (hi : i < 8) (he : s.entry i = .owned a o l)
    (hlow : ∀ j < i, (s.entry j).line? ≠ some a) : s.ownerOf a = some i :=
  findEntry_some hi (by simp [he, HoldEntry.line?]) fun j hj => by simpa using hlow j hj

theorem ownerOf_none (h : ∀ j < 8, (s.entry j).line? ≠ some a) : s.ownerOf a = none :=
  findEntry_none fun j hj => by simpa using h j hj

theorem isFree_eq_false {e : HoldEntry} (h : e ≠ .free) : e.isFree = false := by
  cases e with
  | free => exact absurd rfl h
  | owned => rfl

theorem freeEntry_lowest (hi : i < 8) (he : s.entry i = .free) (hlow : ∀ j < i, s.entry j ≠ .free) :
    s.freeEntry = some i :=
  findEntry_some hi (by rw [he]; rfl) fun j hj => isFree_eq_false (hlow j hj)

theorem freeEntry_none (h : ∀ j < 8, s.entry j ≠ .free) : s.freeEntry = none :=
  findEntry_none fun j hj => isFree_eq_false (h j hj)

end

theorem park_eq {s : State} {i : Nat} {a : Addr} {o : HoldOwner} {l : List Parked} (x : Parked)
    (he : s.entry i = .owned a o l) : park i x s = s.setEntry i (.owned a o (l ++ [x])) := by simp [park, he]

/-! ### The engine's requests -/

/-- The restore write of the record at the cursor is queued (R108). -/
theorem queueRestore_eq {s : State} {r : Rec} {w : WriteInfo} {st : RecOutcome} {b : Bool} {old : List Byte}
    (hr : s.ring.find s.rollback.cursor = some r) (hb : r.body = .write w st b) (ho : w.oldData = some old) :
    queueRestore s = { s with
      rollback := { s.rollback with state := .restoring }
      mem := { s.mem with queue := s.mem.queue ++
        [{ kind := .write, tag := 72, addr := w.addr, len := w.len, data := old }] } } := by
  have hreq : (s.ring.find s.rollback.cursor).bind restoreOf =
      some { kind := .write, tag := 72, addr := w.addr, len := w.len, data := old } := by
    simp [hr, restoreOf, hb, ho]
  unfold queueRestore
  rw [hreq]
  rfl

@[simp] theorem queueRestore_hold (s : State) : (queueRestore s).hold = s.hold := by
  unfold queueRestore; dsimp only; split <;> rfl

@[simp] theorem queueRestore_ingress (s : State) : (queueRestore s).ingress = s.ingress := by
  unfold queueRestore; dsimp only; split <;> rfl

@[simp] theorem queueRestore_state (s : State) : (queueRestore s).rollback.state = .restoring := by
  unfold queueRestore; dsimp only; split <;> rfl

/-! ### Claims -/

section
variable {s : State} {a : Addr} {i : Nat}

theorem claimLine_owned (h : s.ownerOf a = some i) : claimLine a s =
    park i (.claim { line := a, mode := s.rollback.mode }) { s with rollback := { s.rollback with state := .claiming } } := by
  simp [claimLine, h]

theorem claimLine_waits (h : s.ownerOf a = none) (hf : s.freeEntry = none) : claimLine a s =
    setArbiter (s.hold.arbiter ++ [.rollback { line := a, mode := s.rollback.mode }])
      { s with rollback := { s.rollback with state := .claiming } } := by
  simp [claimLine, h, hf]

theorem claimLine_force (h : s.ownerOf a = none) (hf : s.freeEntry = some i) (hm : s.rollback.mode = .force) :
    claimLine a s = queueRestore s := by
  simp [claimLine, h, hf, hm]

theorem claimLine_check (h : s.ownerOf a = none) (hf : s.freeEntry = some i) (hm : s.rollback.mode ≠ .force) :
    claimLine a s = holdForCheck i a [] s := by
  cases hc : s.rollback.mode with
  | force => exact absurd hc hm
  | checkSkip | checkStop => simp [claimLine, h, hf, hc]

end

/-! ### Claimants of a FREE entry -/

/-- With no claim on the arbiter for its line, a watched write takes the entry alone (R23). -/
theorem takeEntry_alone {s : State} {w : HeldWrite} (i : Nat)
    (h : ∀ x ∈ s.hold.arbiter, x.claims (lineOf w.req.addr) = false) : takeEntry i w s = own i w [] s := by
  have hnone : s.hold.arbiter.find? (Claimant.claims (lineOf w.req.addr)) = none :=
    List.find?_eq_none.2 fun x hx => by simp [h x hx]
  unfold takeEntry
  rw [hnone]

section
variable {s : State} {w : HeldWrite} {c : Claim} {rest : List Claimant} (i : Nat)

theorem offerFree_head (hw : s.waitingHead = some w) :
    offerFree i (.head :: rest) s = takeEntry i w (popHead (setArbiter rest s)) := by simp [offerFree, hw]

/-- A claim and a head for the same line, in FORCE: the restore, then the head's write (R24, R36). -/
theorem offerFree_both_force (hw : s.waitingHead = some w) (hline : lineOf w.req.addr = c.line) (hm : c.mode = .force) :
    offerFree i (.rollback c :: rest) s =
      own i w [] (queueRestore (popHead (setArbiter (rest.filter fun x => !x.isHead) s))) := by
  simp [offerFree, hw, hline, hm]

/-- A claim and a head for the same line, in a CHECK mode: the check, with the head's write parked behind it (R24, R36). -/
theorem offerFree_both_check (hw : s.waitingHead = some w) (hline : lineOf w.req.addr = c.line) (hm : c.mode ≠ .force) :
    offerFree i (.rollback c :: rest) s =
      holdForCheck i c.line [.host w.req w.cands] (popHead (setArbiter (rest.filter fun x => !x.isHead) s)) := by
  cases hc : c.mode with
  | force => exact absurd hc hm
  | checkSkip | checkStop => simp [offerFree, hw, hline, hc]

/-- A claim for a line the head does not want, in FORCE: the entry goes on to the next claimant (R36). -/
theorem offerFree_claim_force (hother : ∀ w, s.waitingHead = some w → lineOf w.req.addr ≠ c.line) (hm : c.mode = .force) :
    offerFree i (.rollback c :: rest) s = offerFree i rest (queueRestore (setArbiter rest s)) := by
  cases hw : s.waitingHead with
  | none => simp [offerFree, hw, hm]
  | some w => simp [offerFree, hw, hm, hother w hw]

theorem offerFree_claim_check (hother : ∀ w, s.waitingHead = some w → lineOf w.req.addr ≠ c.line) (hm : c.mode ≠ .force) :
    offerFree i (.rollback c :: rest) s = holdForCheck i c.line [] (setArbiter rest s) := by
  cases hc : c.mode with
  | force => exact absurd hc hm
  | checkSkip | checkStop =>
    cases hw : s.waitingHead with
    | none => simp [offerFree, hw, hc]
    | some w => simp [offerFree, hw, hc, hother w hw]

end

/-! ### Parked lists -/

section
variable {r : HostReq} {cands : Set16} {c : Claim} {rest : List Parked} {s : State} (i : Nat)

theorem walk_nil : walk i [] s = offerFree i s.hold.arbiter s := rfl

theorem walk_unwatched : walk i (.host r 0 :: rest) s = walk i rest (enqueue r.item s) := by simp [walk]

theorem walk_watched (h : cands ≠ 0) : walk i (.host r cands :: rest) s = own i { req := r, cands := cands } rest s := by
  rw [walk, if_neg h]

theorem walk_claim_force (h : c.mode = .force) : walk i (.claim c :: rest) s = walk i rest (queueRestore s) := by
  simp [walk, h]

theorem walk_claim_check (h : c.mode ≠ .force) : walk i (.claim c :: rest) s = holdForCheck i c.line rest s := by
  cases hc : c.mode with
  | force => exact absurd hc h
  | checkSkip | checkStop => simp [walk, hc]

/-- The reads and unwatched writes at the front of a parked list are queued in its order (R34). -/
theorem walk_unwatched_run (l : List Parked) : ∀ (reqs : List HostReq) (s : State),
    walk i (reqs.map (fun x => Parked.host x 0) ++ l) s =
      walk i l { s with mem := { s.mem with queue := s.mem.queue ++ reqs.map HostReq.item } }
  | [], s => by simp
  | r :: reqs, s => by
    rw [List.map_cons, List.cons_append, walk_unwatched, walk_unwatched_run l reqs]
    simp [enqueue]

end

theorem release_owned {s : State} {i : Nat} {a : Addr} {o : HoldOwner} {l : List Parked} (h : s.entry i = .owned a o l) :
    release i s = walk i l s := by simp [release, h]

/-! ### Classification -/

section
variable {s : State} {r : HostReq} {i : Nat}

theorem exec_classification {rest : List HostReq} (h : s.resetHeld = false) (hq : s.ingress.queue = r :: rest)
    (hw : s.ingress.waiting = none) : exec .classification s = .next (settle (classifyHead r s)) := by
  simp [exec, execClassification, h, hq, hw]

theorem exec_classification_idle (h : s.ingress.queue = [] ∨ s.ingress.waiting ≠ none) :
    exec .classification s = .next s := by
  simp only [exec, execClassification]
  split
  · rfl
  split
  · rfl
  · rfl
  next hq hw => simp [hq, hw] at h

section
variable (hm : malformed r = false)
include hm

theorem classifyHead_parks (ho : s.ownerOf (lineOf r.addr) = some i) :
    classifyHead r s = park i (.host r (s.candidates r)) (popHead s) := by simp [classifyHead, hm, ho]

variable (ho : s.ownerOf (lineOf r.addr) = none)
include ho

theorem classifyHead_unwatched (hc : s.candidates r = 0) : classifyHead r s = enqueue r.item (popHead s) := by
  simp [classifyHead, hm, ho, hc]

theorem classifyHead_takes (hc : s.candidates r ≠ 0) (hf : s.freeEntry = some i) :
    classifyHead r s = takeEntry i { req := r, cands := s.candidates r } (popHead s) := by
  unfold classifyHead
  rw [if_neg (by simp [hm]), ho]
  dsimp only
  rw [if_neg hc, hf]

theorem classifyHead_waits (hc : s.candidates r ≠ 0) (hf : s.freeEntry = none) :
    classifyHead r s =
      { setArbiter (s.hold.arbiter ++ [.head]) s with ingress := { s.ingress with waiting := some (s.candidates r) } } := by
  unfold classifyHead
  rw [if_neg (by simp [hm]), ho]
  dsimp only
  rw [if_neg hc, hf]

end

end

end Sys2Proof.Machine
end

section
/-! The line law with one entry in hand: what it says of the other entries, of the claimants and of the engine, and how an
operation on the entry gives the law back (R21, R24, R25, R26, R36). -/

namespace Sys2Proof.Machine

/-! ### The entries by their numbers -/

theorem entries_toList (s : State) : s.hold.entries.toList = (List.range 8).map s.entry := by
  apply List.ext_getElem
  · simp
  · intro i hi _
    have hi : i < 8 := by simpa using hi
    simp [State.entry, hi]

theorem mem_ownedLines {s : State} {a : Addr} : a ∈ s.ownedLines ↔ ∃ i, (s.entry i).line? = some a := by
  simp only [State.ownedLines, entries_toList, List.mem_filterMap, List.mem_map, List.mem_range]
  constructor
  · rintro ⟨_, ⟨i, -, rfl⟩, h⟩
    exact ⟨i, h⟩
  · rintro ⟨i, h⟩
    exact ⟨_, ⟨i, line_lt h, rfl⟩, h⟩

theorem ownedLines_nodup {s : State} : s.ownedLines.Nodup ↔
    ∀ i j a, (s.entry i).line? = some a → (s.entry j).line? = some a → i = j := by
  rw [State.ownedLines, entries_toList, List.Nodup, List.pairwise_filterMap, List.pairwise_map, List.pairwise_iff_getElem]
  simp only [List.length_range, List.getElem_range]
  constructor
  · intro h i j a hi hj
    rcases Nat.lt_trichotomy i j with hij | hij | hij
    · exact absurd rfl (h i j (line_lt hi) (line_lt hj) hij a hi a hj)
    · exact hij
    · exact absurd rfl (h j i (line_lt hj) (line_lt hi) hij a hj a hi)
  · rintro h i j - - hij a hi b hj rfl
    exact absurd (h i j a hi hj) (Nat.ne_of_lt hij)

/-! ### The law with one entry in hand -/

/-- A claimant waits for a FREE entry to take this line (R24, R36). -/
def State.wants (s : State) (a : Addr) : Prop :=
  (∃ w, s.waitingHead = some w ∧ lineOf w.req.addr = a) ∨ ∃ c, Claimant.rollback c ∈ s.hold.arbiter ∧ c.line = a

/-- The rollback claims that wait elsewhere than behind entry `i` (R36). -/
def State.claimsBut (s : State) (i : Nat) : Nat :=
  ∑ j ∈ (Finset.range 8).erase i, (s.entry j).claimCount + (s.hold.arbiter.filter fun x => !x.isHead).length

/-- The line law of all but entry `i`, with `n` claims in hand. -/
structure State.LinesBut (s : State) (i n : Nat) : Prop where
  unique : ∀ j k a, j ≠ i → k ≠ i → (s.entry j).line? = some a → (s.entry k).line? = some a → j = k
  oneLine : ∀ j ≠ i, (s.entry j).onOneLine
  used : s.hold.arbiter ≠ [] → ∀ j < 8, j ≠ i → (s.entry j).isFree = false
  heads : (s.hold.arbiter.filter Claimant.isHead).length = if s.ingress.waiting.isSome then 1 else 0
  queue : s.ingress.waiting.isSome → s.ingress.queue ≠ []
  wanted : ∀ a, s.wants a → ∀ j ≠ i, (s.entry j).line? ≠ some a
  claims : s.claimsBut i + n = if s.rollback.state = .claiming then 1 else 0

/-- Entry `i` may own the line: no other entry does and no claimant wants it. -/
structure State.LineOpen (s : State) (i : Nat) (a : Addr) : Prop where
  others : ∀ j ≠ i, (s.entry j).line? ≠ some a
  unwanted : ¬ s.wants a

/-- The line law lets entry `i` be `e`. -/
structure State.Admits (s : State) (i : Nat) (e : HoldEntry) : Prop where
  oneLine : e.onOneLine
  used : s.hold.arbiter ≠ [] → e.isFree = false
  line : ∀ a, e.line? = some a → s.LineOpen i a

/-- The line law, split at one entry. -/
theorem lineLaw_iff {s : State} {i : Nat} (hi : i < 8) :
    s.LineLaw ↔ s.LinesBut i (s.entry i).claimCount ∧ s.Admits i (s.entry i) := by
  have hcount : s.claimCount = s.claimsBut i + (s.entry i).claimCount := by
    have hsum : (s.hold.entries.toList.map HoldEntry.claimCount).sum = ∑ j ∈ Finset.range 8, (s.entry j).claimCount := by
      rw [entries_toList, List.map_map]
      rfl
    have hsplit := Finset.add_sum_erase (Finset.range 8) (fun j => (s.entry j).claimCount) (Finset.mem_range.2 hi)
    simp only [State.claimCount, State.claimsBut, hsum]
    omega
  simp only [State.LineLaw, ownedLines_nodup, mem_ownedLines, hcount]
  constructor
  · rintro ⟨hunique, hone, hused, hheads, hqueue, hhead, hclaim, hclaims⟩
    have hwanted : ∀ a, s.wants a → ∀ j, (s.entry j).line? ≠ some a := by
      rintro a (⟨w, hw, rfl⟩ | ⟨c, hc, rfl⟩) j hj
      · exact hhead w hw ⟨j, hj⟩
      · exact hclaim c hc ⟨j, hj⟩
    exact ⟨⟨fun j k a _ _ => hunique j k a, fun j _ => hone j, fun h j hj _ => hused h j hj, hheads, hqueue,
        fun a ha j _ => hwanted a ha j, hclaims⟩,
      ⟨hone i, fun h => hused h i hi, fun a ha => ⟨fun j hj h => hj (hunique j i a h ha), fun h => hwanted a h i ha⟩⟩⟩
  · rintro ⟨h, hi'⟩
    have hwanted : ∀ a, s.wants a → ¬ ∃ j, (s.entry j).line? = some a := by
      rintro a ha ⟨j, hj⟩
      by_cases hji : j = i
      · subst hji; exact (hi'.line a hj).unwanted ha
      · exact h.wanted a ha j hji hj
    refine ⟨fun j k a hj hk => ?_, fun j => ?_, fun hne j hj => ?_, h.heads, h.queue,
      fun w hw => hwanted _ (.inl ⟨w, hw, rfl⟩), fun c hc => hwanted _ (.inr ⟨c, hc, rfl⟩), h.claims⟩
    · by_cases hji : j = i <;> by_cases hki : k = i
      · rw [hji, hki]
      · subst hji; exact absurd hk ((hi'.line a hj).others k hki)
      · subst hki; exact absurd hj ((hi'.line a hk).others j hji)
      · exact h.unique j k a hji hki hj hk
    · by_cases hji : j = i
      · subst hji; exact hi'.oneLine
      · exact h.oneLine j hji
    · by_cases hji : j = i
      · subst hji; exact hi'.used hne
      · exact h.used hne j hj hji

/-- The line law reads the hold table, the ingress queue and the engine's state only. -/
theorem lineLaw_congr {s t : State} (h : s.LineLaw) (hhold : t.hold = s.hold) (hin : t.ingress = s.ingress)
    (hrb : t.rollback.state = .claiming ↔ s.rollback.state = .claiming) : t.LineLaw := by
  have hread : t.LineLaw ↔ ({ s with hold := t.hold, ingress := t.ingress, rollback := t.rollback } : State).LineLaw := Iff.rfl
  have hstate : s.LineLaw ↔ ({ s with rollback := t.rollback } : State).LineLaw := by
    simp only [State.LineLaw, hrb]
    rfl
  rw [hread, hhold, hin]
  exact hstate.1 h

/-! ### Changes of the claimants and of the engine -/

/-- The law of the other entries stays where these entries stay, no claimant comes to want a line, and the two counts of
claimants are right. -/
theorem State.LinesBut.change {s t : State} {i n m : Nat} (h : s.LinesBut i n) (hentry : ∀ j ≠ i, t.entry j = s.entry j)
    (harb : t.hold.arbiter ≠ [] → s.hold.arbiter ≠ []) (hwants : ∀ a, t.wants a → s.wants a)
    (hheads : (t.hold.arbiter.filter Claimant.isHead).length = if t.ingress.waiting.isSome then 1 else 0)
    (hqueue : t.ingress.waiting.isSome → t.ingress.queue ≠ [])
    (hclaims : t.claimsBut i + m = if t.rollback.state = .claiming then 1 else 0) : t.LinesBut i m where
  unique j k a hj hk := by rw [hentry j hj, hentry k hk]; exact h.unique j k a hj hk
  oneLine j hj := by rw [hentry j hj]; exact h.oneLine j hj
  used hne j hj hji := by rw [hentry j hji]; exact h.used (harb hne) j hj hji
  heads := hheads
  queue := hqueue
  wanted a ha j hj := by rw [hentry j hj]; exact h.wanted a (hwants a ha) j hj
  claims := hclaims

theorem claimsBut_congr {s t : State} {i : Nat} (hentry : ∀ j ≠ i, t.entry j = s.entry j)
    (harb : (t.hold.arbiter.filter fun x => !x.isHead).length = (s.hold.arbiter.filter fun x => !x.isHead).length) :
    t.claimsBut i = s.claimsBut i := by
  unfold State.claimsBut
  rw [harb]
  congr 1
  exact Finset.sum_congr rfl fun j hj => by rw [hentry j (Finset.ne_of_mem_erase hj)]

theorem claims_length_le_claimsBut (s : State) (i : Nat) :
    (s.hold.arbiter.filter fun x => !x.isHead).length ≤ s.claimsBut i := Nat.le_add_left ..

theorem State.LinesBut.claims_le {s : State} {i n : Nat} (h : s.LinesBut i n) : s.claimsBut i + n ≤ 1 := by
  rw [h.claims]
  split <;> omega

section
variable {s t : State} {i n : Nat}

theorem entry_congr (hhold : t.hold = s.hold) (j : Nat) : t.entry j = s.entry j := by simp only [State.entry, hhold]

theorem wants_congr (hhold : t.hold = s.hold) (hin : t.ingress = s.ingress) (a : Addr) : t.wants a ↔ s.wants a := by
  simp only [State.wants, State.waitingHead, hhold, hin]

theorem State.LineOpen.congr {a : Addr} (h : s.LineOpen i a) (hhold : t.hold = s.hold) (hin : t.ingress = s.ingress) :
    t.LineOpen i a :=
  ⟨fun j hj => by rw [entry_congr hhold]; exact h.others j hj, by rw [wants_congr hhold hin]; exact h.unwanted⟩

theorem State.Admits.congr {e : HoldEntry} (h : s.Admits i e) (hhold : t.hold = s.hold) (hin : t.ingress = s.ingress) :
    t.Admits i e :=
  ⟨h.oneLine, by rw [hhold]; exact h.used, fun a ha => (h.line a ha).congr hhold hin⟩

/-- The engine alone changes its state, and with it the count of claims in hand. -/
theorem State.LinesBut.engine {m : Nat} (h : s.LinesBut i n) (hhold : t.hold = s.hold) (hin : t.ingress = s.ingress)
    (hclaims : s.claimsBut i + m = if t.rollback.state = .claiming then 1 else 0) : t.LinesBut i m := by
  refine h.change (fun j _ => entry_congr hhold j) (by rw [hhold]; exact id) (fun a => (wants_congr hhold hin a).1)
    (by rw [hhold, hin]; exact h.heads) (by rw [hin]; exact h.queue) ?_
  rw [claimsBut_congr (fun j _ => entry_congr hhold j) (by rw [hhold])]
  exact hclaims

/-- The engine acts on the one claim, which is in hand. -/
theorem State.LinesBut.claimTaken (h : s.LinesBut i (n + 1)) (hhold : t.hold = s.hold) (hin : t.ingress = s.ingress)
    (hrb : t.rollback.state ≠ .claiming) : t.LinesBut i n := by
  refine h.engine hhold hin ?_
  have := h.claims_le
  rw [if_neg hrb]
  omega

end

/-! ### The entry goes back into the table -/

theorem State.LinesBut.setEntry {s : State} {i : Nat} {e : HoldEntry} (hi : i < 8) (h : s.LinesBut i e.claimCount)
    (he : s.Admits i e) : (s.setEntry i e).LineLaw := by
  have hentry : ∀ j ≠ i, (s.setEntry i e).entry j = s.entry j := fun j hj => entry_setEntry_other s e hj.symm
  rw [lineLaw_iff hi, entry_setEntry_same s e hi]
  refine ⟨h.change hentry id (fun _ => id) h.heads h.queue ?_, he.oneLine, he.used, fun a ha => ?_⟩
  · rw [claimsBut_congr hentry rfl]; exact h.claims
  · exact ⟨fun j hj => by rw [hentry j hj]; exact (he.line a ha).others j hj, (he.line a ha).unwanted⟩

section
variable {s : State} {i : Nat} {a : Addr} {l : List Parked} {o : HoldOwner}

theorem admits_owned (hopen : s.LineOpen i a) (ho : (HoldEntry.owned a o l).onOneLine) : s.Admits i (.owned a o l) :=
  ⟨ho, fun _ => rfl, fun b hb => by rw [← Option.some.inj hb]; exact hopen⟩

/-- A watched write becomes the owner (R23, R34). -/
theorem own_lineLaw {w : HeldWrite} (hi : i < 8) (h : s.LinesBut i (l.filter Parked.isClaim).length)
    (hopen : s.LineOpen i (lineOf w.req.addr)) (hl : ∀ x ∈ l, x.onLine (lineOf w.req.addr)) : (own i w l s).LineLaw :=
  h.setEntry (e := .owned _ (.reading w) l) hi (admits_owned hopen ⟨rfl, hl⟩)

/-- The engine holds the entry for a check; `s` is the state in which it is CHECKING (R36, R105). -/
theorem owned_checking_lineLaw (hi : i < 8) (h : s.LinesBut i (l.filter Parked.isClaim).length) (hopen : s.LineOpen i a)
    (hl : ∀ x ∈ l, x.onLine a) : (s.setEntry i (.owned a .checking l)).LineLaw :=
  h.setEntry (e := .owned a .checking l) hi (admits_owned hopen ⟨trivial, hl⟩)

/-- The engine's one claim gets the entry in a CHECK mode (R36). -/
theorem holdForCheck_lineLaw (hi : i < 8) (h : s.LinesBut i ((l.filter Parked.isClaim).length + 1)) (hopen : s.LineOpen i a)
    (hl : ∀ x ∈ l, x.onLine a) : (holdForCheck i a l s).LineLaw :=
  owned_checking_lineLaw (s := { s with rollback := { s.rollback with state := .checking } }) hi
    (h.claimTaken rfl rfl (by simp)) ⟨hopen.others, hopen.unwanted⟩ hl

end

/-! ### The claimants of a FREE entry -/

section
variable {s : State} {i n : Nat} {rest : List Claimant}

theorem claimsBut_setArbiter (s : State) (i : Nat) (l : List Claimant) :
    (setArbiter l s).claimsBut i + (s.hold.arbiter.filter fun x => !x.isHead).length =
      s.claimsBut i + (l.filter fun x => !x.isHead).length := by
  have hentry : ∀ j, (setArbiter l s).entry j = s.entry j := fun _ => rfl
  simp only [State.claimsBut, hentry, setArbiter_hold]
  omega

/-- The head is on the arbiter only while it waits (R24). -/
theorem State.LinesBut.waitingHead_of_head (h : s.LinesBut i n) (hmem : .head ∈ s.hold.arbiter) :
    ∃ w, s.waitingHead = some w := by
  have hpos : 0 < (s.hold.arbiter.filter Claimant.isHead).length :=
    List.length_pos_of_mem (List.mem_filter.2 ⟨hmem, rfl⟩)
  have hwaits : s.ingress.waiting.isSome := by
    by_contra hno
    rw [h.heads, if_neg hno] at hpos
    exact absurd hpos (by decide)
  obtain ⟨cands, hc⟩ := Option.isSome_iff_exists.1 hwaits
  obtain ⟨r, q, hq⟩ := List.exists_cons_of_ne_nil (h.queue hwaits)
  exact ⟨⟨r, cands⟩, by simp [State.waitingHead, hq, hc]⟩

/-- The head that has waited longest leaves the ingress queue and the arbiter (R25). -/
theorem State.LinesBut.headTaken (h : s.LinesBut i n) (harb : s.hold.arbiter = .head :: rest) :
    (popHead (setArbiter rest s)).LinesBut i n := by
  have hheads := h.heads
  have hclaims := claimsBut_setArbiter s i rest
  rw [harb] at hheads hclaims
  refine h.change (t := popHead (setArbiter rest s)) (fun _ _ => rfl) (fun _ => by simp [harb]) ?_ ?_ (by simp) ?_
  · rintro a (⟨w, hw, -⟩ | ⟨c, hc, rfl⟩)
    · simp [State.waitingHead] at hw
    · exact .inr ⟨c, by rw [harb]; exact List.mem_cons_of_mem _ hc, rfl⟩
  · simp only [popHead_hold, setArbiter_hold, popHead_ingress]
    have hcount : (List.filter Claimant.isHead (.head :: rest)).length = (rest.filter Claimant.isHead).length + 1 := rfl
    rw [hcount] at hheads
    have hle : (if s.ingress.waiting.isSome then 1 else 0) ≤ 1 := by split <;> omega
    rw [← hheads] at hle
    exact Nat.le_zero.1 (Nat.le_of_succ_le_succ hle)
  · have hrest : List.filter (fun x => !x.isHead) (.head :: rest) = rest.filter fun x => !x.isHead := rfl
    rw [hrest] at hclaims
    show (setArbiter rest s).claimsBut i + n = _
    rw [Nat.add_right_cancel hclaims]
    exact h.claims

/-- No second claim waits beside the one that has waited longest (R26). -/
theorem State.LinesBut.no_claim_in_rest {c : Claim} (h : s.LinesBut i n) (harb : s.hold.arbiter = .rollback c :: rest) :
    rest.filter (fun x => !x.isHead) = [] := by
  have hle := claims_length_le_claimsBut s i
  have hone := h.claims_le
  rw [harb, List.filter_cons_of_pos (by rfl), List.length_cons] at hle
  exact List.eq_nil_of_length_eq_zero (by omega)

/-- The claim that has waited longest leaves the arbiter and is in hand (R25). -/
theorem State.LinesBut.claimInHand {c : Claim} (h : s.LinesBut i n) (harb : s.hold.arbiter = .rollback c :: rest) :
    (setArbiter rest s).LinesBut i (n + 1) := by
  have hheads := h.heads
  have hclaims := claimsBut_setArbiter s i rest
  rw [harb] at hheads hclaims
  refine h.change (t := setArbiter rest s) (fun _ _ => rfl) (fun _ => by simp [harb]) ?_ hheads h.queue ?_
  · rintro a (hw | ⟨c', hc', rfl⟩)
    · exact .inl hw
    · exact .inr ⟨c', by rw [harb]; exact List.mem_cons_of_mem _ hc', rfl⟩
  · rw [List.filter_cons_of_pos (by rfl), List.length_cons] at hclaims
    rw [setArbiter_rollback, ← h.claims]
    omega

/-- With its one claim in hand, the arbiter's claimants want the waiting head's line only. -/
theorem wants_setArbiter_rest {c : Claim} (h : s.LinesBut i n) (harb : s.hold.arbiter = .rollback c :: rest) {a : Addr}
    (ha : (setArbiter rest s).wants a) : ∃ w, s.waitingHead = some w ∧ lineOf w.req.addr = a := by
  rcases ha with hw | ⟨c', hc', -⟩
  · exact hw
  · exact absurd rfl (List.filter_eq_nil_iff.1 (h.no_claim_in_rest harb) _ hc')

theorem claim_lineOpen {c : Claim} (h : s.LinesBut i n) (harb : s.hold.arbiter = .rollback c :: rest)
    (hother : ∀ w, s.waitingHead = some w → lineOf w.req.addr ≠ c.line) : (setArbiter rest s).LineOpen i c.line := by
  refine ⟨h.wanted _ (.inr ⟨c, by simp [harb], rfl⟩), fun ha => ?_⟩
  obtain ⟨w, hw, hline⟩ := wants_setArbiter_rest h harb ha
  exact hother w hw hline

/-- The claim and the head behind it, which wants the same line, both leave the arbiter (R24, R36). -/
theorem State.LinesBut.bothTaken {c : Claim} (h : s.LinesBut i n) (harb : s.hold.arbiter = .rollback c :: rest) :
    (popHead (setArbiter (rest.filter fun x => !x.isHead) s)).LinesBut i (n + 1) ∧
      ∀ a, ¬ (popHead (setArbiter (rest.filter fun x => !x.isHead) s)).wants a := by
  rw [h.no_claim_in_rest harb]
  have hwants : ∀ a, ¬ (popHead (setArbiter [] s)).wants a := by
    rintro a (⟨w, hw, -⟩ | ⟨c', hc', -⟩)
    · simp [State.waitingHead] at hw
    · simp at hc'
  refine ⟨h.change (t := popHead (setArbiter [] s)) (fun _ _ => rfl) (by simp) (fun a ha => absurd ha (hwants a)) (by simp)
    (by simp) ?_, hwants⟩
  have hrest := (h.claimInHand harb).claims
  have hempty := claimsBut_setArbiter s i rest
  have hnil := claimsBut_setArbiter s i []
  rw [h.no_claim_in_rest harb] at hempty
  show (setArbiter [] s).claimsBut i + (n + 1) = _
  rw [show (setArbiter [] s).claimsBut i = (setArbiter rest s).claimsBut i by simp only [List.filter_nil] at hnil; omega]
  exact hrest

/-- The claim for a line leaves the arbiter to park in the line's entry, and the engine has no other (R36). -/
theorem State.LinesBut.claimParked {c : Claim} (h : s.LinesBut i n) (hmem : .rollback c ∈ s.hold.arbiter) :
    (setArbiter (s.hold.arbiter.filter fun x => !x.claims c.line) s).LinesBut i (n + 1) ∧
      ∀ x ∈ s.hold.arbiter.filter (fun x => !x.claims c.line), x.isHead = true := by
  have hone : s.hold.arbiter.filter (fun x => !x.isHead) = [.rollback c] := by
    have hle := claims_length_le_claimsBut s i
    have hlaw := h.claims_le
    have hc : .rollback c ∈ s.hold.arbiter.filter fun x => !x.isHead := List.mem_filter.2 ⟨hmem, rfl⟩
    obtain ⟨x, hx⟩ := List.length_eq_one_iff.1
      (Nat.le_antisymm (by omega : (s.hold.arbiter.filter fun x => !x.isHead).length ≤ 1) (List.length_pos_of_mem hc))
    rw [hx, List.mem_singleton] at hc
    rw [hx, hc]
  have hheads : ∀ x ∈ s.hold.arbiter.filter (fun x => !x.claims c.line), x.isHead = true := by
    intro x hx
    obtain ⟨hx, hclaims⟩ := List.mem_filter.1 hx
    by_contra hhead
    have : x ∈ s.hold.arbiter.filter fun x => !x.isHead := List.mem_filter.2 ⟨hx, by simpa using hhead⟩
    rw [hone, List.mem_singleton] at this
    simp [this, Claimant.claims] at hclaims
  refine ⟨h.change (t := setArbiter _ s) (fun _ _ => rfl) (fun _ => List.ne_nil_of_mem hmem) ?_ ?_ h.queue ?_, hheads⟩
  · rintro a (hw | ⟨c', hc', -⟩)
    · exact .inl hw
    · exact absurd (hheads _ hc') (by simp [Claimant.isHead])
  · have hsame : (s.hold.arbiter.filter fun x => !x.claims c.line).filter Claimant.isHead =
        s.hold.arbiter.filter Claimant.isHead := by
      rw [List.filter_filter]
      refine List.filter_congr fun x _ => ?_
      cases x <;> simp [Claimant.isHead, Claimant.claims]
    simp only [setArbiter_hold, hsame]
    exact h.heads
  · have hcount := claimsBut_setArbiter s i (s.hold.arbiter.filter fun x => !x.claims c.line)
    have hnil : (s.hold.arbiter.filter fun x => !x.claims c.line).filter (fun x => !x.isHead) = [] :=
      List.filter_eq_nil_iff.2 fun x hx => by simp [hheads x hx]
    rw [hone, hnil, List.length_singleton, List.length_nil] at hcount
    rw [setArbiter_rollback, ← h.claims]
    omega

/-- A watched write takes the entry in hand, and a claim for its line parks behind it (R23, R36). -/
theorem takeEntry_lineLaw {w : HeldWrite} (hi : i < 8) (h : s.LinesBut i 0) (hno : s.waitingHead = none)
    (hothers : ∀ j ≠ i, (s.entry j).line? ≠ some (lineOf w.req.addr)) : (takeEntry i w s).LineLaw := by
  unfold takeEntry
  split
  next c hc =>
    have hclaims : c.line = lineOf w.req.addr := by simpa [Claimant.claims] using List.find?_some hc
    obtain ⟨hlaw, hheads⟩ := h.claimParked (List.mem_of_find?_eq_some hc)
    rw [hclaims] at hlaw hheads
    refine own_lineLaw (s := setArbiter (s.hold.arbiter.filter fun x => !x.claims (lineOf w.req.addr)) s) hi hlaw
      ⟨hothers, ?_⟩ (by simpa [Parked.onLine] using hclaims)
    rintro (⟨w', hw', -⟩ | ⟨c', hc', -⟩)
    · exact absurd (hno.symm.trans hw') (by simp)
    · exact absurd (hheads _ hc') (by simp [Claimant.isHead])
  next hnone =>
    refine own_lineLaw hi h ⟨hothers, ?_⟩ (by simp)
    rintro (⟨w', hw', -⟩ | ⟨c, hc, hline⟩)
    · simp [hno] at hw'
    · cases hf : s.hold.arbiter.find? (Claimant.claims (lineOf w.req.addr)) with
      | none => simpa [Claimant.claims, hline] using List.find?_eq_none.1 hf _ hc
      | some x =>
        cases x with
        | head => simpa [Claimant.claims] using List.find?_some hf
        | rollback c' => exact hnone c' hf

/-- A FREE entry is offered to the claimants: it ends with an owner for a line that no other entry owns, or FREE with no
claimant left (R25). -/
theorem offerFree_lineLaw (hi : i < 8) : ∀ (l : List Claimant) (s : State), s.hold.arbiter = l → s.LinesBut i 0 →
    (offerFree i l s).LineLaw
  | [], s, harb, h => by
    exact h.setEntry (e := .free) hi ⟨trivial, fun hne => absurd harb hne, fun _ ha => by simp [HoldEntry.line?] at ha⟩
  | .head :: rest, s, harb, h => by
    obtain ⟨w, hw⟩ := h.waitingHead_of_head (by simp [harb])
    rw [offerFree_head i hw]
    exact takeEntry_lineLaw hi (h.headTaken harb) (by simp [State.waitingHead]) (h.wanted _ (.inl ⟨w, hw, rfl⟩))
  | .rollback c :: rest, s, harb, h => by
    by_cases hline : ∃ w, s.waitingHead = some w ∧ lineOf w.req.addr = c.line
    · obtain ⟨w, hw, hline⟩ := hline
      obtain ⟨hboth, hunwanted⟩ := h.bothTaken harb
      have hopen : (popHead (setArbiter (rest.filter fun x => !x.isHead) s)).LineOpen i c.line :=
        ⟨h.wanted c.line (.inr ⟨c, by simp [harb], rfl⟩), hunwanted _⟩
      by_cases hm : c.mode = .force
      · rw [offerFree_both_force i hw hline hm]
        exact own_lineLaw (l := []) hi (hboth.claimTaken (queueRestore_hold _) (queueRestore_ingress _) (by simp))
          (hline ▸ hopen.congr (queueRestore_hold _) (queueRestore_ingress _)) (by simp)
      · rw [offerFree_both_check i hw hline hm]
        exact holdForCheck_lineLaw hi hboth hopen (by simpa [Parked.onLine] using hline)
    · have hother : ∀ w, s.waitingHead = some w → lineOf w.req.addr ≠ c.line := fun w hw hl => hline ⟨w, hw, hl⟩
      by_cases hm : c.mode = .force
      · rw [offerFree_claim_force i hother hm]
        exact offerFree_lineLaw hi rest _ (by simp) ((h.claimInHand harb).claimTaken (by simp) (by simp) (by simp))
      · rw [offerFree_claim_check i hother hm]
        exact holdForCheck_lineLaw hi (h.claimInHand harb) (claim_lineOpen h harb hother) (by simp)

/-- The walk of a parked list keeps the line law: what is queued and what becomes the owner is for the entry's line, and a
claim met is the engine's one (R26, R34, R36). -/
theorem walk_lineLaw {a : Addr} (hi : i < 8) : ∀ (l : List Parked) (s : State),
    s.LinesBut i (l.filter Parked.isClaim).length → s.LineOpen i a → (∀ x ∈ l, x.onLine a) → (walk i l s).LineLaw
  | [], s, h, _, _ => offerFree_lineLaw hi s.hold.arbiter s rfl h
  | .host r cands :: rest, s, h, hopen, hl => by
    have hr : lineOf r.addr = a := hl _ List.mem_cons_self
    have hrest : ∀ x ∈ rest, x.onLine a := fun x hx => hl x (List.mem_cons_of_mem _ hx)
    by_cases hcands : cands = 0
    · rw [hcands, walk_unwatched]
      exact walk_lineLaw hi rest _ (h.change (t := enqueue r.item s) (fun _ _ => rfl) id (fun _ => id) h.heads h.queue h.claims)
        ⟨hopen.others, hopen.unwanted⟩ hrest
    · rw [walk_watched i hcands]
      exact own_lineLaw hi h (by rw [hr]; exact hopen) (by rw [hr]; exact hrest)
  | .claim c :: rest, s, h, hopen, hl => by
    have hc : c.line = a := hl _ List.mem_cons_self
    have hrest : ∀ x ∈ rest, x.onLine a := fun x hx => hl x (List.mem_cons_of_mem _ hx)
    by_cases hm : c.mode = .force
    · rw [walk_claim_force i hm]
      exact walk_lineLaw hi rest _ (h.claimTaken (by simp) (by simp) (by simp)) (hopen.congr (by simp) (by simp)) hrest
    · rw [walk_claim_check i hm, hc]
      exact holdForCheck_lineLaw hi h hopen hrest

end

/-- A release keeps the line law (R34). -/
theorem release_lineLaw (i : Nat) {s : State} (h : s.LineLaw) : (release i s).LineLaw := by
  unfold release
  split
  · exact h
  next line owner parked he =>
    obtain ⟨hbut, hadmits⟩ := (lineLaw_iff (entry_lt he)).1 h
    rw [he] at hbut hadmits
    exact walk_lineLaw (entry_lt he) parked s hbut (hadmits.line line rfl) hadmits.oneLine.2

end Sys2Proof.Machine
end

section
/-! The line law through every operation: the claims of the engine, the releases, the records, the resolution, the drain, the
classification, and so every command (R21). -/

namespace Sys2Proof.Machine

/-! ### What the law does not read -/

theorem lineLaw_ring {s : State} (h : s.LineLaw) (r : Ring) : State.LineLaw { s with ring := r } :=
  lineLaw_congr h rfl rfl Iff.rfl

theorem lineLaw_host {s : State} (h : s.LineLaw) (x : HostLink) : State.LineLaw { s with host := x } :=
  lineLaw_congr h rfl rfl Iff.rfl

theorem lineLaw_session {s : State} (h : s.LineLaw) (x : Session) : State.LineLaw { s with session := x } :=
  lineLaw_congr h rfl rfl Iff.rfl

theorem lineLaw_seqr {s : State} (h : s.LineLaw) (q : Sequencer) : State.LineLaw { s with seqr := q } :=
  lineLaw_congr h rfl rfl Iff.rfl

theorem lineLaw_drain {s : State} (h : s.LineLaw) (d : Drain) : State.LineLaw { s with drain := d } :=
  lineLaw_congr h rfl rfl Iff.rfl

theorem raise_lineLaw {s : State} (h : s.LineLaw) (e : Event) : (raise e s).LineLaw := lineLaw_congr h rfl rfl Iff.rfl

theorem raiseIf_lineLaw {s : State} (h : s.LineLaw) (b : Bool) (e : Event) : (raiseIf b e s).LineLaw := by
  cases b
  · exact h
  · exact raise_lineLaw h e

theorem offerFault_lineLaw {s : State} (h : s.LineLaw) (k : FaultKind) (p : FaultPort) (t : MemTag) (a : Option Addr) :
    (offerFault k p t a s).LineLaw := by
  rw [offerFault_eq]
  exact lineLaw_congr h rfl rfl Iff.rfl

theorem enqueue_lineLaw {s : State} (h : s.LineLaw) (m : MemReq) : (enqueue m s).LineLaw := lineLaw_congr h rfl rfl Iff.rfl

theorem respond_lineLaw {s : State} (h : s.LineLaw) (t : HostTag) (st : HostStatus) (data : List Byte) :
    (respond t st data s).LineLaw := lineLaw_congr h rfl rfl Iff.rfl

theorem settle_lineLaw {s : State} (h : s.LineLaw) : (settle s).LineLaw := by
  have hs := settle_grantWork s
  exact lineLaw_congr h hs.hold hs.ingress (by rw [hs.rollback])

/-! ### The engine's state -/

/-- The engine goes from one state to another, neither of them CLAIMING. -/
theorem lineLaw_engine {s t : State} (h : s.LineLaw) (hhold : t.hold = s.hold) (hin : t.ingress = s.ingress)
    (hs : s.rollback.state ≠ .claiming) (ht : t.rollback.state ≠ .claiming) : t.LineLaw :=
  lineLaw_congr h hhold hin (by simp [hs, ht])

theorem endRollback_lineLaw {s : State} (h : s.LineLaw) (hs : s.rollback.state ≠ .claiming) (r : RbResult) :
    (endRollback r s).LineLaw := lineLaw_engine h rfl rfl hs (by simp)

/-- An entry offered to the claimants makes no claim. -/
theorem offerFree_not_claiming (i : Nat) : ∀ (l : List Claimant) (s : State), s.rollback.state ≠ .claiming →
    (offerFree i l s).rollback.state ≠ .claiming
  | [], _, h => h
  | .head :: rest, s, h => by
    unfold offerFree
    split
    · unfold takeEntry
      split <;> exact h
    · exact h
  | .rollback c :: rest, s, h => by
    by_cases hline : ∃ w, s.waitingHead = some w ∧ lineOf w.req.addr = c.line
    · obtain ⟨w, hw, hline⟩ := hline
      by_cases hm : c.mode = .force
      · rw [offerFree_both_force i hw hline hm]
        simp [own]
      · rw [offerFree_both_check i hw hline hm]
        simp [holdForCheck]
    · have hother : ∀ w, s.waitingHead = some w → lineOf w.req.addr ≠ c.line := fun w hw hl => hline ⟨w, hw, hl⟩
      by_cases hm : c.mode = .force
      · rw [offerFree_claim_force i hother hm]
        exact offerFree_not_claiming i rest _ (by simp)
      · rw [offerFree_claim_check i hother hm]
        simp [holdForCheck]

theorem walk_not_claiming (i : Nat) : ∀ (l : List Parked) (s : State), s.rollback.state ≠ .claiming →
    (walk i l s).rollback.state ≠ .claiming
  | [], s, h => offerFree_not_claiming i _ s h
  | .host r cands :: rest, s, h => by
    unfold walk
    split
    · exact walk_not_claiming i rest _ h
    · exact h
  | .claim c :: rest, s, h => by
    by_cases hm : c.mode = .force
    · rw [walk_claim_force i hm]
      exact walk_not_claiming i rest _ (by simp)
    · rw [walk_claim_check i hm]
      simp [holdForCheck]

theorem releaseChecking_not_claiming {s : State} (h : s.rollback.state ≠ .claiming) :
    (releaseChecking s).rollback.state ≠ .claiming := by
  unfold releaseChecking
  split
  · unfold release
    split
    · exact h
    · exact walk_not_claiming _ _ s h
  · exact h

theorem releaseChecking_lineLaw {s : State} (h : s.LineLaw) : (releaseChecking s).LineLaw := by
  unfold releaseChecking
  split
  · exact release_lineLaw _ h
  · exact h

/-! ### Items that park and claimants that join -/

theorem claimCount_park (a : Addr) (o : HoldOwner) (l : List Parked) (x : Parked) :
    (HoldEntry.owned a o (l ++ [x])).claimCount = (HoldEntry.owned a o l).claimCount + if x.isClaim then 1 else 0 := by
  simp only [HoldEntry.claimCount, List.filter_append, List.length_append]
  cases x <;> rfl

/-- An item parks behind the owner of its line (R22, R26, R36). -/
theorem park_lineLaw {s : State} {i : Nat} {a : Addr} {o : HoldOwner} {l : List Parked} {x : Parked}
    (he : s.entry i = .owned a o l) (hx : x.onLine a) (hadmits : s.Admits i (.owned a o l))
    (h : s.LinesBut i ((HoldEntry.owned a o l).claimCount + if x.isClaim then 1 else 0)) : (park i x s).LineLaw := by
  rw [park_eq x he]
  rw [← claimCount_park] at h
  refine h.setEntry (entry_lt he) (admits_owned (hadmits.line a rfl) ⟨hadmits.oneLine.1, fun y hy => ?_⟩)
  rcases List.mem_append.1 hy with hy | hy
  · exact hadmits.oneLine.2 y hy
  · rwa [List.mem_singleton.1 hy]

theorem wanted_not_owned {s : State} (h : s.LineLaw) {a : Addr} (ha : s.wants a) : a ∉ s.ownedLines := by
  obtain ⟨-, -, -, -, -, hhead, hclaim, -⟩ := h
  rcases ha with ⟨w, hw, rfl⟩ | ⟨c, hc, rfl⟩
  · exact hhead w hw
  · exact hclaim c hc

/-- While an entry is FREE no claimant waits (R25). -/
theorem free_no_claimant {s : State} (h : s.LineLaw) {i : Nat} (hi : i < 8) (he : s.entry i = .free) :
    s.hold.arbiter = [] ∧ s.ingress.waiting = none ∧ ∀ a, ¬ s.wants a := by
  obtain ⟨hbut, hadmits⟩ := (lineLaw_iff hi).1 h
  rw [he] at hadmits
  have harb : s.hold.arbiter = [] := by
    by_contra hne
    simpa [HoldEntry.isFree] using hadmits.used hne
  have hwaits : s.ingress.waiting = none := by
    have hheads := hbut.heads
    rw [harb] at hheads
    cases hw : s.ingress.waiting with
    | none => rfl
    | some c => simp [hw] at hheads
  refine ⟨harb, hwaits, ?_⟩
  rintro a (⟨w, hw, -⟩ | ⟨c, hc, -⟩)
  · simp [State.waitingHead, hwaits] at hw
  · simp [harb] at hc

/-- A claimant joins, or leaves, where the entries stay and no entry is FREE while one waits (R24, R25, R36). -/
theorem lineLaw_claimants {s t : State} (h : s.LineLaw) (hentries : t.hold.entries = s.hold.entries)
    (hfull : t.hold.arbiter ≠ [] → s.hold.arbiter ≠ [] ∨ s.freeEntry = none)
    (hwants : ∀ a, t.wants a → s.wants a ∨ s.ownerOf a = none)
    (hheads : (t.hold.arbiter.filter Claimant.isHead).length = if t.ingress.waiting.isSome then 1 else 0)
    (hqueue : t.ingress.waiting.isSome → t.ingress.queue ≠ [])
    (hclaims : t.claimCount = if t.rollback.state = .claiming then 1 else 0) : t.LineLaw := by
  have hentry : ∀ j, t.entry j = s.entry j := fun j => by simp only [State.entry, hentries]
  have hlines : t.ownedLines = s.ownedLines := by simp only [State.ownedLines, hentries]
  have hwanted : ∀ a, t.wants a → a ∉ t.ownedLines := fun a ha => by
    rw [hlines]
    rcases hwants a ha with ha | ha
    · exact wanted_not_owned h ha
    · exact fun hmem => (mem_ownedLines.1 hmem).elim (ownerOf_eq_none_iff.1 ha)
  obtain ⟨hunique, hone, hused, -⟩ := h
  refine ⟨by rw [hlines]; exact hunique, fun j => by rw [hentry]; exact hone j, fun hne j hj => ?_, hheads, hqueue,
    fun w hw => hwanted _ (.inl ⟨w, hw, rfl⟩), fun c hc => hwanted _ (.inr ⟨c, hc, rfl⟩), hclaims⟩
  rw [hentry]
  rcases hfull hne with hne | hfree
  · exact hused hne j hj
  · exact findEntry_eq_none hfree hj

/-! ### The rollback engine -/

theorem queueRestore_lineLaw {s : State} (h : s.LineLaw) (hs : s.rollback.state ≠ .claiming) : (queueRestore s).LineLaw :=
  lineLaw_engine h (queueRestore_hold s) (queueRestore_ingress s) hs (by simp)

theorem claimCount_eq_zero {s : State} (h : s.LineLaw) (hs : s.rollback.state ≠ .claiming) : s.claimCount = 0 := by
  obtain ⟨-, -, -, -, -, -, -, hclaims⟩ := h
  rw [hclaims, if_neg hs]

/-- The engine's claim joins the arbiter where no entry is FREE and none owns its line (R36). -/
theorem claimWaits_lineLaw {s : State} (h : s.LineLaw) (hs : s.rollback.state ≠ .claiming) (c : Claim)
    (howner : s.ownerOf c.line = none) (hfull : s.freeEntry = none) :
    (setArbiter (s.hold.arbiter ++ [Claimant.rollback c])
      { s with rollback := { s.rollback with state := .claiming } }).LineLaw := by
  have hzero := claimCount_eq_zero h hs
  obtain ⟨-, -, -, hheads, hqueue, -⟩ := id h
  refine lineLaw_claimants h rfl (fun _ => .inr hfull) ?_ ?_ hqueue ?_
  · rintro b (hw | ⟨c', hc, rfl⟩)
    · exact .inl (.inl hw)
    · rcases List.mem_append.1 hc with hc | hc
      · exact .inl (.inr ⟨c', hc, rfl⟩)
      · obtain rfl : c' = c := by simpa using hc
        exact .inr howner
  · have hsame : (s.hold.arbiter ++ [Claimant.rollback c]).filter Claimant.isHead = s.hold.arbiter.filter Claimant.isHead := by
      rw [List.filter_append]
      exact List.append_nil _
    rw [setArbiter_hold, hsame]
    exact hheads
  · have hmore : ((s.hold.arbiter ++ [Claimant.rollback c]).filter fun x => !x.isHead).length =
        (s.hold.arbiter.filter fun x => !x.isHead).length + 1 := by
      rw [List.filter_append, List.length_append]
      rfl
    unfold State.claimCount at hzero
    show (s.hold.entries.toList.map HoldEntry.claimCount).sum +
      ((s.hold.arbiter ++ [Claimant.rollback c]).filter fun x => !x.isHead).length = 1
    omega

/-- The engine's claim parks behind the line's owner, or takes a FREE entry at once, or joins the arbiter (R36, R104). -/
theorem claimLine_lineLaw {s : State} (h : s.LineLaw) (hs : s.rollback.state ≠ .claiming) (a : Addr) :
    (claimLine a s).LineLaw := by
  cases howner : s.ownerOf a with
  | some i =>
    obtain ⟨o, l, he⟩ := ownerOf_eq_some howner
    obtain ⟨hbut, hadmits⟩ := (lineLaw_iff (entry_lt he)).1 h
    rw [he] at hbut hadmits
    rw [claimLine_owned howner]
    refine park_lineLaw (s := { s with rollback := { s.rollback with state := .claiming } }) he rfl (hadmits.congr rfl rfl)
      (hbut.engine rfl rfl ?_)
    have hzero := hbut.claims
    rw [if_neg hs] at hzero
    simp only [Parked.isClaim, if_true]
    omega
  | none =>
    cases hfree : s.freeEntry with
    | some i =>
      obtain ⟨hi, he⟩ := freeEntry_eq_some hfree
      by_cases hm : s.rollback.mode = .force
      · rw [claimLine_force howner hfree hm]
        exact queueRestore_lineLaw h hs
      · obtain ⟨-, -, hunwanted⟩ := free_no_claimant h hi he
        have hbut := ((lineLaw_iff hi).1 h).1
        rw [he] at hbut
        rw [claimLine_check howner hfree hm]
        exact owned_checking_lineLaw (s := { s with rollback := { s.rollback with state := .checking } }) hi
          (hbut.engine rfl rfl (hbut.claims.trans (if_neg hs)))
          ⟨fun j _ => ownerOf_eq_none_iff.1 howner j, hunwanted a⟩ (by simp)
    | none =>
      rw [claimLine_waits howner hfree]
      exact claimWaits_lineLaw h hs { line := a, mode := s.rollback.mode } howner hfree

theorem visit_lineLaw : ∀ (n : Nat) {s : State}, s.LineLaw → s.rollback.state ≠ .claiming → (visit n s).LineLaw
  | 0, s, h, hs => by
    unfold visit
    dsimp only
    split
    · exact claimLine_lineLaw h hs _
    · exact endRollback_lineLaw (lineLaw_engine h rfl rfl hs hs) hs .done
  | n + 1, s, h, hs => by
    unfold visit
    split
    · exact claimLine_lineLaw h hs _
    · exact visit_lineLaw n (lineLaw_engine h rfl rfl hs hs) hs

theorem advance_lineLaw {s : State} (h : s.LineLaw) (hs : s.rollback.state ≠ .claiming) : (advance s).LineLaw := by
  unfold advance
  split
  · exact endRollback_lineLaw h hs _
  · exact visit_lineLaw _ (lineLaw_engine h rfl rfl hs hs) hs

theorem conflict_lineLaw {s : State} (h : s.LineLaw) (hs : s.rollback.state ≠ .claiming) : (conflict s).LineLaw := by
  have hlaw : (releaseChecking { s with rollback := { s.rollback with conflicts := s.rollback.conflicts + 1 } }).LineLaw :=
    releaseChecking_lineLaw (lineLaw_engine h rfl rfl hs hs)
  have hstate := releaseChecking_not_claiming
    (s := { s with rollback := { s.rollback with conflicts := s.rollback.conflicts + 1 } }) hs
  unfold conflict
  dsimp only
  split
  · exact advance_lineLaw hlaw hstate
  · exact advance_lineLaw hlaw hstate
  · exact endRollback_lineLaw hlaw hstate _

theorem checkResponded_lineLaw {s : State} (h : s.LineLaw) (a : Addr) (st : MemStatus) (line : List Byte) :
    (checkResponded a st line s).LineLaw := by
  unfold checkResponded
  split
  next hstate =>
    have hs : s.rollback.state ≠ .claiming := by simp [hstate]
    split
    · split
      · exact releaseChecking_lineLaw (queueRestore_lineLaw h hs)
      · exact conflict_lineLaw h hs
    · exact offerFault_lineLaw (endRollback_lineLaw (releaseChecking_lineLaw h) (releaseChecking_not_claiming hs) _) ..
  next hstate => exact endRollback_lineLaw h (by simp [hstate]) _
  all_goals exact h

theorem markRestored_lineLaw {s : State} (h : s.LineLaw) : (markRestored s).LineLaw := lineLaw_congr h rfl rfl Iff.rfl

theorem restoreResponded_lineLaw {s : State} (h : s.LineLaw) (a : Addr) (st : MemStatus) :
    (restoreResponded a st s).LineLaw := by
  unfold restoreResponded
  split
  next hstate =>
    have hs : s.rollback.state ≠ .claiming := by simp [hstate]
    split
    · exact advance_lineLaw (markRestored_lineLaw h) hs
    · exact offerFault_lineLaw (endRollback_lineLaw h hs _) ..
  next hstate =>
    have hs : s.rollback.state ≠ .claiming := by simp [hstate]
    split
    · exact endRollback_lineLaw (markRestored_lineLaw h) hs _
    · exact endRollback_lineLaw (offerFault_lineLaw h ..) (by rw [offerFault_eq]; exact hs) _
  all_goals exact h

/-! ### A claim withdrawn -/

theorem withdrawClaim_free {s : State} {i : Nat} (he : s.entry i = .free) : (withdrawClaim s).entry i = .free := by
  simp only [State.entry, withdrawClaim, Vector.getElem?_map] at he ⊢
  cases hx : s.hold.entries[i]? <;> simp_all

theorem withdrawClaim_owned {s : State} {i : Nat} {a : Addr} {o : HoldOwner} {l : List Parked}
    (he : s.entry i = .owned a o l) : (withdrawClaim s).entry i = .owned a o (l.filter fun x => !x.isClaim) := by
  simp only [State.entry, withdrawClaim, Vector.getElem?_map] at he ⊢
  cases hx : s.hold.entries[i]? <;> simp_all

theorem withdrawClaim_line (s : State) (i : Nat) : ((withdrawClaim s).entry i).line? = (s.entry i).line? := by
  cases he : s.entry i with
  | free => rw [withdrawClaim_free he]
  | owned => rw [withdrawClaim_owned he]; rfl

theorem withdrawClaim_isFree (s : State) (i : Nat) : ((withdrawClaim s).entry i).isFree = (s.entry i).isFree := by
  cases he : s.entry i with
  | free => rw [withdrawClaim_free he]
  | owned => rw [withdrawClaim_owned he]; rfl

theorem withdrawClaim_claimCount (s : State) (i : Nat) : ((withdrawClaim s).entry i).claimCount = 0 := by
  cases he : s.entry i with
  | free => rw [withdrawClaim_free he]; rfl
  | owned => rw [withdrawClaim_owned he]; simp [HoldEntry.claimCount, List.filter_filter]

theorem withdrawClaim_onOneLine {s : State} {i : Nat} (h : (s.entry i).onOneLine) :
    ((withdrawClaim s).entry i).onOneLine := by
  cases he : s.entry i with
  | free => rw [withdrawClaim_free he]; trivial
  | owned =>
    rw [he] at h
    rw [withdrawClaim_owned he]
    exact ⟨h.1, fun x hx => h.2 x (List.mem_of_mem_filter hx)⟩

theorem withdrawn_arbiter (s : State) :
    (withdrawClaim s).hold.arbiter = s.hold.arbiter.filter Claimant.isHead := rfl

/-- With its claim withdrawn the engine ends (R37, R110). -/
theorem withdrawn_lineLaw {s : State} (h : s.LineLaw) (r : RbResult) : (endRollback r (withdrawClaim s)).LineLaw := by
  have hlines : ∀ a, a ∈ (withdrawClaim s).ownedLines ↔ a ∈ s.ownedLines := fun a => by
    simp only [mem_ownedLines, withdrawClaim_line]
  obtain ⟨hunique, hone, hused, hheads, hqueue, hhead, hclaim, -⟩ := h
  refine ⟨?_, fun i => withdrawClaim_onOneLine (hone i), fun hne i hi => ?_, ?_, hqueue, fun w hw => ?_, fun c hc => ?_, ?_⟩
  · show (withdrawClaim s).ownedLines.Nodup
    rw [ownedLines_nodup] at hunique ⊢
    simpa only [withdrawClaim_line] using hunique
  · show ((withdrawClaim s).entry i).isFree = false
    rw [withdrawClaim_isFree]
    exact hused (fun harb => hne (by rw [endRollback_hold, withdrawn_arbiter, harb]; rfl)) i hi
  · rw [endRollback_hold, withdrawn_arbiter, List.filter_filter]
    simp only [Bool.and_self]
    exact hheads
  · exact fun hmem => hhead w hw ((hlines _).1 hmem)
  · rw [endRollback_hold, withdrawn_arbiter] at hc
    exact absurd (List.mem_filter.1 hc).2 (by simp [Claimant.isHead])
  · have hzero : (withdrawClaim s).claimCount = 0 := by
      simp only [State.claimCount, entries_toList, withdrawn_arbiter, List.filter_filter, List.map_map]
      have hnone : s.hold.arbiter.filter (fun x => !x.isHead && x.isHead) = [] :=
        List.filter_eq_nil_iff.2 fun x _ => by simp
      have hcounts : (List.range 8).map (HoldEntry.claimCount ∘ (withdrawClaim s).entry) = (List.range 8).map fun _ => 0 :=
        List.map_congr_left fun i _ => withdrawClaim_claimCount s i
      rw [hnone, hcounts]
      rfl
    rw [if_neg (by simp)]
    exact hzero

theorem endEarly_lineLaw {s : State} (h : s.LineLaw) (why : RbPending) : (endEarly why s).LineLaw := by
  unfold endEarly
  split
  · exact h
  · exact withdrawn_lineLaw h _
  next hstate => exact releaseChecking_lineLaw (lineLaw_engine h rfl rfl (by simp [hstate]) (by simp))
  next hstate => exact lineLaw_engine h rfl rfl (by simp [hstate]) (by simp)
  · split
    · exact h
    · exact lineLaw_congr h rfl rfl Iff.rfl

/-! ### Slot waits and stops -/

theorem releaseSlots_lineLaw (b : Bool) : ∀ (l : List Nat) {s : State}, s.LineLaw → (releaseSlots b l s).LineLaw
  | [], _, h => lineLaw_ring h _
  | i :: rest, s, h => by
    have hgap : (if b then { s with ring := { s.ring with gap := saturate (s.ring.gap + 1) } } else s).LineLaw := by
      split
      · exact lineLaw_ring h _
      · exact h
    unfold releaseSlots
    dsimp only
    split
    · exact releaseSlots_lineLaw b rest (release_lineLaw i (enqueue_lineLaw hgap _))
    all_goals exact releaseSlots_lineLaw b rest hgap

theorem drainStop_lineLaw {s : State} (h : s.LineLaw) : (drainStop s).LineLaw := by
  unfold drainStop
  split
  · split <;> exact lineLaw_drain h _
  · exact h

theorem stopSession_lineLaw {s : State} (h : s.LineLaw) (r : StopReason) : (stopSession r s).LineLaw :=
  drainStop_lineLaw (lineLaw_seqr (releaseSlots_lineLaw false s.ring.slotList (lineLaw_session h _)) _)

/-! ### Records -/

theorem pushRec_lineLaw {s : State} (h : s.LineLaw) (discard : Bool) (body : RecBody) (time : Time) :
    (pushRec discard body time s).LineLaw := raiseIf_lineLaw (lineLaw_ring h _) ..

theorem exhaust_lineLaw {s : State} (h : s.LineLaw) : (exhaust s).LineLaw := stopSession_lineLaw (raise_lineLaw h _) _

theorem appendRec_lineLaw {s : State} (h : s.LineLaw) (discard : Bool) (body : RecBody) (time : Time) :
    (appendRec discard body time s).LineLaw := by
  unfold appendRec
  split
  · exact exhaust_lineLaw (pushRec_lineLaw h ..)
  · exact pushRec_lineLaw h ..

theorem appendGap_lineLaw {s : State} (h : s.LineLaw) (n : Nat) : (appendGap n s).LineLaw :=
  appendRec_lineLaw (lineLaw_ring h _) ..

theorem appendSkip_lineLaw {s : State} (h : s.LineLaw) (body : RecBody) (time : Time) :
    (appendSkip body time s).LineLaw := by
  unfold appendSkip
  split
  · exact raise_lineLaw (lineLaw_ring h _) _
  split
  · exact appendRec_lineLaw h ..
  split
  · exact appendGap_lineLaw h _
  dsimp only
  split
  · exact appendRec_lineLaw (appendGap_lineLaw h _) ..
  · exact appendGap_lineLaw h _

theorem appendHold_lineLaw {s : State} (h : s.LineLaw) (d : Draft) : (appendHold d s).1.LineLaw := by
  unfold appendHold
  split
  · exact raise_lineLaw h _
  split
  · exact appendRec_lineLaw h ..
  dsimp only
  split
  · split
    · exact appendGap_lineLaw h _
    · exact appendRec_lineLaw (appendGap_lineLaw h _) ..
  · exact appendGap_lineLaw h _

theorem appendArmed_lineLaw {s : State} (h : s.LineLaw) (body : RecBody) (time : Time) :
    (appendArmed body time s).LineLaw := by
  unfold appendArmed
  split
  · exact h
  · exact appendRec_lineLaw h ..

theorem appendFired_lineLaw {s : State} (h : s.LineLaw) (body : RecBody) (time : Time) :
    (appendFired body time s).LineLaw := by
  have hpost : State.LineLaw { pushRec false body time s with session :=
      { (pushRec false body time s).session with post := (pushRec false body time s).session.post + 1 } } :=
    lineLaw_session (pushRec_lineLaw h ..) _
  unfold appendFired
  dsimp only
  split
  · exact exhaust_lineLaw hpost
  split
  · exact raise_lineLaw (lineLaw_session hpost _) _
  · exact hpost

theorem appendRefused_lineLaw {s : State} (h : s.LineLaw) (info : WriteInfo) : (appendRefused info s).LineLaw := by
  unfold appendRefused
  split
  · exact appendSkip_lineLaw h ..
  · exact appendArmed_lineLaw h ..
  · exact appendFired_lineLaw h ..
  all_goals exact h

theorem appendWrite_lineLaw {s : State} (h : s.LineLaw) (d : Draft) : (appendWrite d s).1.LineLaw := by
  unfold appendWrite
  split
  · split
    · exact appendHold_lineLaw h d
    · exact appendSkip_lineLaw h ..
  · exact appendArmed_lineLaw h ..
  · exact appendFired_lineLaw h ..
  all_goals exact h

theorem finishAhead_lineLaw {s : State} (h : s.LineLaw) (i : Nat) (w : HeldWrite) : (finishAhead i w s).LineLaw :=
  release_lineLaw i (enqueue_lineLaw h _)

theorem serveSlot_lineLaw {s : State} (h : s.LineLaw) (i : Nat) (w : HeldWrite) (d : Draft) (rest : List Nat) :
    (serveSlot i w d rest s).LineLaw := finishAhead_lineLaw (appendRec_lineLaw (lineLaw_ring h _) ..) i w

theorem serveList_lineLaw : ∀ (l : List Nat) {s : State}, s.LineLaw → (serveList l s).LineLaw
  | [], _, h => h
  | i :: rest, s, h => by
    unfold serveList
    split
    · split
      · split
        · exact serveList_lineLaw rest (serveSlot_lineLaw h ..)
        · dsimp only
          split
          · exact serveList_lineLaw rest (serveSlot_lineLaw (appendGap_lineLaw h _) ..)
          · exact appendGap_lineLaw h _
      all_goals exact h
    · exact h

theorem serveSlots_lineLaw {s : State} (h : s.LineLaw) : (serveSlots s).LineLaw := serveList_lineLaw _ h

/-! ### The fire and the count -/

/-- What the marker that takes the last number does after the fire (R47). -/
theorem markerStop_lineLaw {s : State} (h : s.LineLaw) (b : Prop) [Decidable b] :
    (if b then (if s.session.state = .fired then exhaust s else raise .seqExhausted s) else s).LineLaw := by
  split
  · split
    · exact exhaust_lineLaw h
    · exact raise_lineLaw h _
  · exact h

theorem fire_lineLaw {s : State} (h : s.LineLaw) (c : Cause) : (fire c s).LineLaw := by
  have hmarker := pushRec_lineLaw h false (.trigger c) s.time.counter
  unfold fire
  generalize pushRec false (.trigger c) s.time.counter s = s0 at hmarker ⊢
  exact markerStop_lineLaw (raiseIf_lineLaw (raise_lineLaw (lineLaw_seqr (lineLaw_session hmarker
    { s0.session with state := if s0.session.q = 0 then .captured else .fired, post := 0, guardsInForce := true })
    { s0.seqr with state := .done, elapsed := 0 }) .fired) (s0.session.q == 0) .captured) _

theorem takeCount_lineLaw {s : State} (h : s.LineLaw) : (takeCount s).LineLaw := by
  unfold takeCount
  split
  · exact lineLaw_seqr h _
  split
  · exact lineLaw_seqr h _
  · exact fire_lineLaw (lineLaw_seqr h _) _

theorem countStep_lineLaw {s : State} (h : s.LineLaw) (b : Bool) : (countStep b s).LineLaw := by
  unfold countStep
  split
  · exact takeCount_lineLaw h
  · exact h

/-! ### Resolution -/

theorem appendGap_running_hold {s : State} {n : Nat} (h : (appendGap n s).session.state = .running) :
    (appendGap n s).hold = s.hold := by
  by_cases hlast : s.ring.nextSeq = lastSeq
  · simp [appendGap_last_session hlast] at h
  · rw [appendGap_of_ne hlast]

/-- An append that makes the write wait leaves the hold table (R53). -/
theorem appendWrite_waits_hold {s t : State} {d : Draft} (h : appendWrite d s = (t, true)) : t.hold = s.hold := by
  have hhold : appendHold d s = (t, true) := by
    unfold appendWrite at h
    split at h
    · split at h
      · exact h
      · simp at h
    all_goals simp at h
  unfold appendHold at hhold
  split at hhold
  · rw [← (Prod.mk.inj hhold).1, raise_hold]
  split at hhold
  · simp at hhold
  · dsimp only at hhold
    split at hhold
    next hrun =>
      split at hhold
      · rw [← (Prod.mk.inj hhold).1]
        exact appendGap_running_hold hrun
      · simp at hhold
    · simp at hhold

/-- The owner of an entry turns from READING to SLOT_WAIT, and the line stays (R32). -/
theorem waitForSlot_lineLaw {s : State} {i : Nat} {a : Addr} {w : HeldWrite} {l : List Parked} (h : s.LineLaw)
    (he : s.entry i = .owned a (.reading w) l) (old : Option (List Byte)) (d : Draft) :
    (waitForSlot i a w old d l s).LineLaw := by
  obtain ⟨hbut, hadmits⟩ := (lineLaw_iff (entry_lt he)).1 h
  rw [he] at hbut hadmits
  exact lineLaw_ring (hbut.setEntry (e := .owned a (.slotWait w old d) l) (entry_lt he)
    (admits_owned (hadmits.line a rfl) hadmits.oneLine)) _

theorem resolveRefused_lineLaw {s : State} (h : s.LineLaw) (i : Nat) (w : HeldWrite) (old : Option (List Byte))
    (hits : Set16) : (resolveRefused i w old hits s).LineLaw := by
  unfold resolveRefused
  refine release_lineLaw i (respond_lineLaw (countStep_lineLaw ?_ _) ..)
  split
  · exact appendRefused_lineLaw (raise_lineLaw h _) _
  · exact raise_lineLaw h _

theorem resolveAhead_lineLaw {s : State} {i : Nat} {a : Addr} {w : HeldWrite} {l : List Parked} (h : s.LineLaw)
    (he : s.entry i = .owned a (.reading w) l) (old : Option (List Byte)) (hits : Set16) :
    (resolveAhead i a w old l hits s).LineLaw := by
  unfold resolveAhead
  dsimp only
  split
  · have happend := appendWrite_lineLaw h { time := s.time.counter, info := recordInfo w (s.recordSet hits) old }
    split
    next t ht =>
      rw [ht] at happend
      exact waitForSlot_lineLaw happend ((entry_congr (appendWrite_waits_hold ht) i).trans he) ..
    next t ht =>
      rw [ht] at happend
      exact finishAhead_lineLaw (countStep_lineLaw happend _) ..
  · exact finishAhead_lineLaw (countStep_lineLaw h _) ..

theorem resolve_lineLaw {s : State} {i : Nat} {a : Addr} {w : HeldWrite} {l : List Parked} (h : s.LineLaw)
    (he : s.entry i = .owned a (.reading w) l) (old : Option (List Byte)) : (resolve i a w old l s).LineLaw := by
  unfold resolve
  dsimp only
  split
  · exact resolveRefused_lineLaw h ..
  · exact resolveAhead_lineLaw h he ..

/-! ### The drain -/

theorem drainQuiesce_lineLaw {s : State} (h : s.LineLaw) : (drainQuiesce s).LineLaw := by
  unfold drainQuiesce
  split
  · split
    · split <;> exact lineLaw_drain h _
    · exact lineLaw_drain h _
    all_goals exact h
  · exact h

theorem retire_lineLaw {s : State} (h : s.LineLaw) : (retire s.drain.inFlight s).LineLaw := by
  obtain ⟨k, items, rest, -, hr, -⟩ := retire_does s.drain.inFlight s rfl
  rw [hr]
  exact lineLaw_congr h rfl rfl Iff.rfl

theorem retireAll_lineLaw {s : State} (h : s.LineLaw) : (retireAll s).LineLaw :=
  serveSlots_lineLaw (raiseIf_lineLaw (retire_lineLaw h) ..)

theorem drainResponded_lineLaw {s : State} (h : s.LineLaw) (o : Outstanding) (st : MemStatus) :
    (drainResponded o st s).LineLaw := by
  unfold drainResponded
  split
  · split
    · exact drainQuiesce_lineLaw h
    · exact drainQuiesce_lineLaw (retireAll_lineLaw (lineLaw_drain h _))
  · have hfault := offerFault_lineLaw (raise_lineLaw h .drainFault) .drainFault .memory o.req.tag (some o.req.addr)
    dsimp only
    split
    · exact drainQuiesce_lineLaw hfault
    · exact drainQuiesce_lineLaw (lineLaw_drain (lineLaw_drain hfault _) _)

theorem drainClearSession_lineLaw {s : State} (h : s.LineLaw) : (drainClearSession s).LineLaw := by
  rw [drainClearSession_same]
  exact lineLaw_drain h _

theorem drainClearAll_lineLaw {s : State} (h : s.LineLaw) : (drainClearAll s).LineLaw := by
  rw [drainClearAll_same]
  exact lineLaw_drain h _

/-! ### Responses -/

theorem hostResponded_lineLaw {s : State} (h : s.LineLaw) (m : MemReq) (st : MemStatus) (data : List Byte) :
    (hostResponded m st data s).LineLaw := by
  unfold hostResponded
  split
  · split <;> exact respond_lineLaw h ..
  · refine respond_lineLaw ?_ ..
    unfold setOutcome
    split
    · exact h
    · exact lineLaw_ring h _

theorem prereadResponded_lineLaw {s : State} (h : s.LineLaw) (i : Nat) (st : MemStatus) (data : List Byte) :
    (prereadResponded i st data s).LineLaw := by
  unfold prereadResponded
  split
  next he =>
    split
    · exact resolve_lineLaw h he _
    · refine resolve_lineLaw (offerFault_lineLaw (raise_lineLaw h _) ..) ?_ _
      rw [offerFault_eq]
      exact he
  all_goals exact h

theorem ownerResponded_lineLaw {s : State} (h : s.LineLaw) (o : Outstanding) (st : MemStatus) (data : List Byte) :
    (ownerResponded o st data s).LineLaw := by
  unfold ownerResponded
  split
  · exact hostResponded_lineLaw h ..
  split
  · exact prereadResponded_lineLaw h ..
  split
  · split
    · exact checkResponded_lineLaw h ..
    · exact restoreResponded_lineLaw h ..
  · exact drainResponded_lineLaw h ..

theorem useFree_lineLaw {s : State} (h : s.LineLaw) (n : Nat) (data : List Byte) : (useFree n data s).LineLaw := by
  unfold useFree
  split
  · exact h
  · exact lineLaw_congr h rfl rfl Iff.rfl

theorem routeResponse_lineLaw {s : State} (h : s.LineLaw) (tag : MemTag) (st : MemStatus) (data : List Byte) :
    (routeResponse tag st data s).LineLaw := by
  unfold routeResponse
  split
  · exact h
  split
  · exact offerFault_lineLaw (raise_lineLaw h _) ..
  next o _ =>
    have hfree : (responseFree o.req st data s).LineLaw := by
      unfold responseFree
      split
      · exact useFree_lineLaw h ..
      all_goals exact h
    exact settle_lineLaw (ownerResponded_lineLaw (lineLaw_congr (t := closeTag tag _) hfree rfl rfl Iff.rfl) ..)

/-! ### Requests and their classification -/

theorem violation_lineLaw {s : State} (h : s.LineLaw) (r : HostReq) : (violation r s).LineLaw :=
  offerFault_lineLaw (raise_lineLaw h _) ..

/-- A request that joins the ingress queue leaves the head that waits (R24, R137). -/
theorem arrive_lineLaw {s : State} (h : s.LineLaw) (r : HostReq) : (arrive r s).LineLaw := by
  unfold arrive
  split
  · exact violation_lineLaw h r
  split
  · exact violation_lineLaw (lineLaw_host h _) r
  · obtain ⟨-, -, -, hheads, hqueue, -, -, hclaims⟩ := id h
    refine lineLaw_claimants h rfl .inl (fun a ha => .inl ?_) hheads (fun _ => by simp) hclaims
    rcases ha with ⟨w, hw, rfl⟩ | hc
    · refine .inl ⟨w, ?_, rfl⟩
      simp only [State.waitingHead] at hw ⊢
      cases hwaits : s.ingress.waiting with
      | none => simp [hwaits] at hw
      | some c =>
        cases hq : s.ingress.queue with
        | nil => exact absurd hq (hqueue (by simp [hwaits]))
        | cons x q => simpa [hq, hwaits] using hw
    · exact .inr hc

/-- A head that does not wait leaves the ingress queue (R22). -/
theorem popHead_lineLaw {s : State} (h : s.LineLaw) (hw : s.ingress.waiting = none) : (popHead s).LineLaw := by
  obtain ⟨-, -, -, hheads, -, -, -, hclaims⟩ := id h
  refine lineLaw_claimants h rfl .inl (fun a ha => .inl ?_) ?_ (by simp) hclaims
  · rcases ha with ⟨w, hw, -⟩ | hc
    · simp [State.waitingHead] at hw
    · exact .inr hc
  · rw [hw] at hheads
    exact hheads

/-- The head joins the arbiter where no entry is FREE and none owns its line (R24). -/
theorem headWaits_lineLaw {s : State} {r : HostReq} {rest : List HostReq} (h : s.LineLaw)
    (hq : s.ingress.queue = r :: rest) (hw : s.ingress.waiting = none) (cands : Set16)
    (howner : s.ownerOf (lineOf r.addr) = none) (hfull : s.freeEntry = none) :
    State.LineLaw { setArbiter (s.hold.arbiter ++ [.head]) s with ingress := { s.ingress with waiting := some cands } } := by
  obtain ⟨-, -, -, hheads, -, -, -, hclaims⟩ := id h
  rw [hw] at hheads
  refine lineLaw_claimants h rfl (fun _ => .inr hfull) ?_ ?_ (fun _ => by simp [hq]) ?_
  · rintro a (⟨w, hw', rfl⟩ | ⟨c, hc, rfl⟩)
    · have hreq : w.req = r := by
        simp only [State.waitingHead, hq, Option.some.injEq] at hw'
        rw [← hw']
      rw [hreq]
      exact .inr howner
    · exact .inl (.inr ⟨c, by simpa using hc, rfl⟩)
  · show ((s.hold.arbiter ++ [Claimant.head]).filter Claimant.isHead).length = 1
    rw [List.filter_append, List.length_append, hheads]
    rfl
  · have hsame : (s.hold.arbiter ++ [Claimant.head]).filter (fun x => !x.isHead) = s.hold.arbiter.filter fun x => !x.isHead := by
      rw [List.filter_append]
      exact List.append_nil _
    show (s.hold.entries.toList.map HoldEntry.claimCount).sum +
      ((s.hold.arbiter ++ [Claimant.head]).filter fun x => !x.isHead).length = _
    rw [hsame]
    exact hclaims

/-- Classification keeps the law: the head parks behind the owner of its line, passes it by, takes a FREE entry for a line
that no entry owns, or waits where none is FREE (R22, R23, R24). -/
theorem classifyHead_lineLaw {s : State} {r : HostReq} {rest : List HostReq} (h : s.LineLaw)
    (hq : s.ingress.queue = r :: rest) (hw : s.ingress.waiting = none) : (classifyHead r s).LineLaw := by
  have hpop := popHead_lineLaw h hw
  by_cases hm : malformed r = true
  · unfold classifyHead
    rw [if_pos hm]
    exact respond_lineLaw (violation_lineLaw hpop r) ..
  rw [Bool.not_eq_true] at hm
  cases howner : s.ownerOf (lineOf r.addr) with
  | some i =>
    obtain ⟨o, l, he⟩ := ownerOf_eq_some howner
    have he' : (popHead s).entry i = .owned (lineOf r.addr) o l := he
    obtain ⟨hbut, hadmits⟩ := (lineLaw_iff (entry_lt he)).1 hpop
    rw [he'] at hbut hadmits
    rw [classifyHead_parks hm howner]
    exact park_lineLaw he' rfl hadmits hbut
  | none =>
    by_cases hc : s.candidates r = 0
    · rw [classifyHead_unwatched hm howner hc]
      exact enqueue_lineLaw hpop _
    cases hfree : s.freeEntry with
    | some i =>
      obtain ⟨hi, he⟩ := freeEntry_eq_some hfree
      have hbut := ((lineLaw_iff hi).1 hpop).1
      rw [show (popHead s).entry i = .free from he] at hbut
      rw [classifyHead_takes hm howner hc hfree]
      exact takeEntry_lineLaw hi hbut (by simp [State.waitingHead]) fun j _ => ownerOf_eq_none_iff.1 howner j
    | none =>
      rw [classifyHead_waits hm howner hc hfree]
      exact headWaits_lineLaw h hq hw _ howner hfree

/-! ### Every command -/

theorem entry_reset (i : Nat) : State.reset.entry i = .free := by
  by_cases hi : i < 8
  · simp [State.entry, State.reset, hi]
  · exact entry_of_ge _ (Nat.le_of_not_lt hi)

theorem reset_lineLaw : State.reset.LineLaw :=
  ⟨ownedLines_nodup.2 fun i j a ha => by simp [entry_reset, HoldEntry.line?] at ha,
    fun i => by rw [entry_reset]; trivial, fun h => absurd rfl h, rfl, fun h => by simp [State.reset] at h,
    fun w h => by simp [State.reset, State.waitingHead] at h, fun c h => by simp [State.reset] at h, by decide⟩

theorem clearSessionWork_lineLaw {dc : State → State} (hd : ∀ {t : State}, t.LineLaw → (dc t).LineLaw) {s : State}
    (h : s.LineLaw) : (clearSessionWork dc s).LineLaw := by
  have hcleared := lineLaw_session (lineLaw_ring (releaseSlots_lineLaw false s.ring.slotList h)
    (releaseSlots false s.ring.slotList s).ring.cleared) Session.reset
  exact hd (endEarly_lineLaw (lineLaw_seqr hcleared _) _)

theorem clearScope_lineLaw (scope : ClearScope) {s : State} (h : s.LineLaw) : (clearScope scope s).LineLaw := by
  cases scope with
  | session => exact settle_lineLaw (clearSessionWork_lineLaw drainClearSession_lineLaw h)
  | windows => exact lineLaw_congr h rfl rfl Iff.rfl
  | events => exact lineLaw_congr h rfl rfl Iff.rfl
  | all => exact settle_lineLaw (clearSessionWork_lineLaw drainClearAll_lineLaw (lineLaw_congr h rfl rfl Iff.rfl))

theorem toBypass_lineLaw {s : State} (h : s.LineLaw) : (toBypass s).LineLaw :=
  settle_lineLaw (releaseSlots_lineLaw true _ (lineLaw_congr h rfl rfl Iff.rfl))

theorem startSession_lineLaw {s : State} (h : s.LineLaw) (a : StartArgs) : (startSession a s).LineLaw := by
  unfold startSession
  split
  · exact settle_lineLaw (lineLaw_congr h rfl rfl Iff.rfl)
  · exact lineLaw_congr h rfl rfl Iff.rfl

theorem runSessionStart_lineLaw {s : State} (h : s.LineLaw) (args : List Byte) :
    (runSessionStart args s).state.LineLaw := by
  unfold runSessionStart
  split
  · exact h
  split
  · exact h
  split
  · exact h
  · exact startSession_lineLaw h _

theorem runRingRelease_lineLaw {s : State} (h : s.LineLaw) (args : List Byte) : (runRingRelease args s).state.LineLaw := by
  unfold runRingRelease
  split
  · exact h
  split
  · exact h
  · exact settle_lineLaw (serveSlots_lineLaw (lineLaw_ring h _))

theorem runRollbackStart_lineLaw {s : State} (h : s.LineLaw) (args : List Byte) :
    (runRollbackStart args s).state.LineLaw := by
  unfold runRollbackStart
  dsimp only
  split
  · exact h
  split
  · exact h
  split
  · exact h
  split
  · exact h
  next hbusy =>
    have hs : s.rollback.state ≠ .claiming := by
      have : s.rollback.state = .idle := by
        by_contra hne
        exact hbusy (.inl hne)
      simp [this]
    split
    · exact h
    · exact settle_lineLaw (visit_lineLaw _ (lineLaw_engine h rfl rfl hs hs) hs)

theorem runSpillSet_lineLaw {s : State} (h : s.LineLaw) (args : List Byte) : (runSpillSet args s).state.LineLaw := by
  unfold runSpillSet
  split
  · exact h
  split
  · exact h
  split
  · exact h
  · rw [done_state]
    unfold spillSet
    split
    · exact lineLaw_drain h _
    · exact settle_lineLaw (lineLaw_drain h _)

theorem tickAll_lineLaw {s : State} (h : s.LineLaw) : (tickAll s).LineLaw := by
  have htime : State.LineLaw { s with time := s.time.ticked } := lineLaw_congr h rfl rfl Iff.rfl
  unfold tickAll seqTick
  split
  · exact h
  split
  · split
    · exact htime
    split
    · exact lineLaw_seqr htime _
    · exact raise_lineLaw (lineLaw_seqr htime _) _
  all_goals exact htime

theorem portFrame_lineLaw {code : Byte} {argc : Nat} {run : List Byte → State → Reply} {f : Frame} {s : State}
    (hs : s.LineLaw) (h : ∀ t : State, t.LineLaw → (run f.args t).state.LineLaw) :
    (portFrame code argc run f s).LineLaw :=
  portFrame_preserves (P := State.LineLaw) (fun _ _ ht => lineLaw_congr ht rfl rfl Iff.rfl) hs h

/-- Every command keeps the line law. -/
theorem exec_lineLaw {c : Instr} {s t : State} (hs : s.LineLaw) (h : exec c s = .next t) : t.LineLaw := by
  have next : ∀ {u : State}, u.LineLaw → (.next u : Host.Outcome State Fault Refusal) = .next t → t.LineLaw :=
    fun hu e => Host.Outcome.next.inj e ▸ hu
  cases c with
  | pinReset =>
    refine next ?_ h
    exact lineLaw_congr reset_lineLaw rfl rfl Iff.rfl
  | resetNRelease => exact next (by split <;> [exact lineLaw_congr hs rfl rfl Iff.rfl; exact hs]) h
  | hostCreditOffer => exact next (by split <;> [exact hs; exact lineLaw_congr hs rfl rfl Iff.rfl]) h
  | emptyFrame => exact next (by split <;> [exact hs; exact lineLaw_congr hs rfl rfl Iff.rfl]) h
  | readReq => exact next (by split <;> [exact hs; exact arrive_lineLaw hs _]) h
  | writeReq => exact next (by split <;> [exact hs; exact arrive_lineLaw (useFree_lineLaw hs ..) _]) h
  | creditAnnouncement =>
    exact next (by split <;> [exact hs; exact settle_lineLaw (lineLaw_congr hs rfl rfl Iff.rfl)]) h
  | classification =>
    refine next ?_ h
    split
    · exact hs
    split
    · exact hs
    · exact hs
    next r rest hq hw => exact settle_lineLaw (classifyHead_lineLaw hs hq hw)
  | tick | stageExpiry => exact next (tickAll_lineLaw hs) h
  | prereadResponse | memoryResponse | checkReadResponse | restoreResponse | drainResponse | strayResponse =>
    exact next (routeResponse_lineLaw hs ..) h
  | clearSession | clearWindows | clearEvents | clearAll =>
    refine next (portFrame_lineLaw hs fun u hu => ?_) h
    unfold runClear
    split
    · exact clearScope_lineLaw _ hu
    · exact hu
  | bypass =>
    refine next (portFrame_lineLaw hs fun u hu => ?_) h
    rw [done_state]
    split
    · exact toBypass_lineLaw hu
    · exact hu
  | sessionStart => exact next (portFrame_lineLaw hs fun u hu => runSessionStart_lineLaw hu _) h
  | sessionStop =>
    refine next (portFrame_lineLaw hs fun u hu => ?_) h
    unfold runSessionStop
    split
    · exact settle_lineLaw (stopSession_lineLaw hu _)
    · exact hu
  | seqFire =>
    refine next (portFrame_lineLaw hs fun u hu => ?_) h
    unfold runSeqFire
    split
    · exact fire_lineLaw hu _
    · exact hu
  | ringRelease => exact next (portFrame_lineLaw hs fun u hu => runRingRelease_lineLaw hu _) h
  | rollbackStart => exact next (portFrame_lineLaw hs fun u hu => runRollbackStart_lineLaw hu _) h
  | rollbackAbort =>
    refine next (portFrame_lineLaw hs fun u hu => ?_) h
    unfold runRollbackAbort
    split
    · exact hu
    · exact settle_lineLaw (endEarly_lineLaw hu _)
  | spillSet => exact next (portFrame_lineLaw hs fun u hu => runSpillSet_lineLaw hu _) h
  | spillConsume =>
    refine next (portFrame_lineLaw hs fun u hu => ?_) h
    unfold runSpillConsume
    dsimp only
    split
    · exact hu
    · exact settle_lineLaw (lineLaw_drain hu _)
  | drainRestart =>
    refine next (portFrame_lineLaw hs fun u hu => ?_) h
    unfold runDrainRestart
    split
    · exact settle_lineLaw (lineLaw_drain hu _)
    all_goals exact hu
  | winSet | winGet | winEnable | winDisable | seqSet | seqGet | seqLength | ringRead | holdRead =>
    refine next (portFrame_lineLaw hs fun u hu => ?_) h
    simp only [runWinSet, runWinGet, runWinEnabled, runSeqSet, runSeqGet, runSeqLength, runRingRead, runHoldRead]
    repeat' split
    all_goals exact lineLaw_congr hu rfl rfl Iff.rfl
  | _ => exact next (portFrame_lineLaw hs fun u hu => lineLaw_congr hu rfl rfl Iff.rfl) h

/-- Settles O54: a command keeps the law, and a period of REFCLK touches no hold entry. -/
theorem oneOwnerPerLine : Obligations.OneOwnerPerLine := by
  intro s t hs h
  rcases step_cases h with rfl | ⟨c, rest, hc⟩
  · unfold refclkPeriod
    split
    · exact hs
    split
    · exact lineLaw_congr hs rfl rfl Iff.rfl
    · exact tickAll_lineLaw hs
  · exact exec_lineLaw (s := { s with pending := rest }) hs hc

end Sys2Proof.Machine
end

section
/-! The hold table's obligations: claims, classification, the walk of a released entry, and the check read. -/

namespace Sys2Proof.Machine

/-! ### Claims -/

/-- Settles O46: the line's owner, a FREE entry in each mode, and neither. -/
theorem claimOfLine : Obligations.ClaimOfLine := by
  intro a s
  refine ⟨fun i owner parked hi he hlow => ?_, fun hnone => ⟨fun hfull => ?_, fun i hi he hlow => ⟨?_, ?_⟩⟩⟩
  · rw [claimLine_owned (ownerOf_lowest hi he hlow)]
    exact park_eq _ he
  · rw [claimLine_waits (ownerOf_none hnone) (freeEntry_none hfull)]
    rfl
  · intro r w st b old hm hr hb ho
    rw [claimLine_force (ownerOf_none hnone) (freeEntry_lowest hi he hlow) hm, queueRestore_eq hr hb ho]
  · intro hm
    rw [claimLine_check (ownerOf_none hnone) (freeEntry_lowest hi he hlow) hm]
    rfl

/-! ### Classification -/

/-- Settles O7: the line's owner, no candidate window, no FREE entry, and the lowest FREE entry. -/
theorem classificationOfHead : Obligations.ClassificationOfHead := by
  refine ⟨fun s h => exec_classification_idle h, ?_⟩
  intro r rest s hreset hq hw hlen hlen64 hfit
  have hm : malformed r = false := by
    rw [Bool.eq_false_iff, Ne, malformed_iff]
    omega
  have hpop : popHead s = { s with ingress := { queue := rest, waiting := none } } := by simp [popHead, hq]
  rw [exec_classification hreset hq hw]
  refine ⟨?_, fun hnone => ⟨fun hc => ?_, fun hc hfull => ?_, fun hc harb i hi he hlow => ?_⟩⟩
  · rintro i line owner parked hi he rfl hlow
    have howner : s.ownerOf (lineOf r.addr) = some i := ownerOf_lowest hi he fun j hj => by
      cases hj' : s.entry j with
      | free => simp [HoldEntry.line?]
      | owned a o l =>
        intro hline
        exact hlow j hj o l (by rw [hj', Option.some.inj hline])
    rw [classifyHead_parks hm howner, ← hpop]
    exact congrArg (fun x => Host.Outcome.next (settle x)) (park_eq _ he)
  · rw [classifyHead_unwatched hm (ownerOf_none hnone) hc, hpop]
    rfl
  · rw [classifyHead_waits hm (ownerOf_none hnone) hc (freeEntry_none hfull)]
    rfl
  · rw [classifyHead_takes hm (ownerOf_none hnone) hc (freeEntry_lowest hi he hlow),
      takeEntry_alone i (by simp [harb]), hpop]
    rfl

/-! ### The walk -/

theorem waitingHead_eq {s : State} {r : HostReq} {q : List HostReq} {cands : Set16} (hq : s.ingress.queue = r :: q)
    (hw : s.ingress.waiting = some cands) : s.waitingHead = some { req := r, cands := cands } := by
  simp [State.waitingHead, hq, hw]

theorem waitingHead_none {s : State} (hw : s.ingress.waiting = none) : s.waitingHead = none := by
  simp [State.waitingHead, hw]

section
variable {s : State} {i : Nat} {r : HostReq} {q : List HostReq} {cands : Set16} {c : Claim}
  (hq : s.ingress.queue = r :: q) (hw : s.ingress.waiting = some cands)
include hq hw

/-- The head that has waited longest takes the entry, where no claim behind it is for its line (R25). -/
theorem walk_nil_head {rest : List Claimant} (harb : s.hold.arbiter = .head :: rest)
    (hrest : ∀ x ∈ rest, x.claims (lineOf r.addr) = false) :
    walk i [] s = own i { req := r, cands := cands } []
      { s with ingress := { queue := q, waiting := none }, hold := { s.hold with arbiter := rest } } := by
  rw [walk_nil, harb, offerFree_head i (waitingHead_eq hq hw), takeEntry_alone i hrest]
  simp [popHead, setArbiter, hq]

/-- The head that has waited longest takes the entry, and the claim for its line parks behind it (R36). -/
theorem walk_nil_head_claim (harb : s.hold.arbiter = [.head, .rollback c]) (hline : c.line = lineOf r.addr) :
    walk i [] s = own i { req := r, cands := cands } [.claim c]
      { s with ingress := { queue := q, waiting := none }, hold := { s.hold with arbiter := [] } } := by
  rw [walk_nil, harb, offerFree_head i (waitingHead_eq hq hw)]
  simp [takeEntry, Claimant.claims, hline, own, enqueue, State.setEntry, popHead, setArbiter, hq]

/-- A claim in a CHECK mode that has waited longer takes the entry, and the head's write parks behind it where it is for the
claim's line (R24, R36). -/
theorem walk_nil_claim_head_check (harb : s.hold.arbiter = [.rollback c, .head]) (hm : c.mode ≠ .force) :
    walk i [] s = holdForCheck i c.line (if lineOf r.addr = c.line then [.host r cands] else [])
      { s with
        ingress := if lineOf r.addr = c.line then { queue := q, waiting := none } else s.ingress
        hold := { s.hold with arbiter := if lineOf r.addr = c.line then [] else [.head] } } := by
  have hhead := waitingHead_eq hq hw
  rw [walk_nil, harb]
  by_cases hline : lineOf r.addr = c.line
  · rw [offerFree_both_check i hhead hline hm]
    simp [hline, popHead, setArbiter, hq, Claimant.isHead]
  · rw [offerFree_claim_check i (fun w hw' => by rwa [← Option.some.inj (hhead.symm.trans hw')]) hm]
    simp [hline, setArbiter]

/-- A claim in FORCE that has waited longer queues its restore, and the head's write takes the entry behind it, for whatever
line (R24, R36). -/
theorem walk_nil_claim_head_force (harb : s.hold.arbiter = [.rollback c, .head]) (hm : c.mode = .force) {x : Rec}
    {w : WriteInfo} {st : RecOutcome} {b : Bool} {old : List Byte} (hr : s.ring.find s.rollback.cursor = some x)
    (hb : x.body = .write w st b) (ho : w.oldData = some old) :
    walk i [] s = own i { req := r, cands := cands } [] { s with
      rollback := { s.rollback with state := .restoring }
      ingress := { queue := q, waiting := none }, hold := { s.hold with arbiter := [] }
      mem := { s.mem with queue := s.mem.queue ++
        [{ kind := .write, tag := 72, addr := w.addr, len := w.len, data := old }] } } := by
  have hhead := waitingHead_eq hq hw
  rw [walk_nil, harb]
  by_cases hline : lineOf r.addr = c.line
  · rw [offerFree_both_force i hhead hline hm, show [Claimant.head].filter (fun x => !x.isHead) = [] from rfl,
      queueRestore_eq (s := popHead (setArbiter [] s)) hr hb ho]
    simp [popHead, setArbiter, hq]
  · have hhead' : (queueRestore (setArbiter [.head] s)).waitingHead = some { req := r, cands := cands } :=
      waitingHead_eq (by simpa using hq) (by simpa using hw)
    rw [offerFree_claim_force i (fun w hw' => by rwa [← Option.some.inj (hhead.symm.trans hw')]) hm,
      offerFree_head i hhead', takeEntry_alone i (by simp), queueRestore_eq (s := setArbiter [.head] s) hr hb ho]
    simp [popHead, setArbiter, hq]

end

/-- Settles O15: the requests at the front of the list are queued one by one, then the item after them or the longest waiting
claimant decides, case by case. -/
theorem releaseWalk : Obligations.ReleaseWalk := by
  refine ⟨fun i line owner parked s h => release_owned h, fun i reqs s hi => ⟨?_, ?_, ?_, ?_, ?_⟩,
    fun i c s hi => ⟨?_, fun harb hw => ⟨?_, ?_⟩⟩⟩
  · intro r cands rest hc
    rw [walk_unwatched_run, walk_watched i hc]
    simp only [own, enqueue, preRead, State.setEntry]
  · intro c rest hm
    rw [walk_unwatched_run, walk_claim_check i hm]
    simp only [holdForCheck, enqueue, checkRead, State.setEntry]
  · intro c rest x w st b old hm hr hb ho
    rw [walk_unwatched_run, walk_claim_force i hm]
    exact congrArg (walk i rest) (queueRestore_eq (s := { s with mem := _ }) hr hb ho)
  · intro harb
    have h := walk_unwatched_run i [] reqs s
    rw [List.append_nil] at h
    rw [h, walk_nil, show State.hold { s with mem := _ } = s.hold from rfl, harb]
    rfl
  · have h := walk_unwatched_run i [] reqs s
    rwa [List.append_nil] at h
  · rintro r q cands pre hq hw rfl
    refine ⟨fun rest hrest harb => ?_, fun harb hline => ?_, fun harb hm => ?_, fun x w st b old harb hm hr hb ho => ?_⟩
    · have hother : ∀ y ∈ rest, y.claims (lineOf r.addr) = false := by
        rcases hrest with rfl | ⟨rfl, hne⟩
        · simp
        · simpa [Claimant.claims] using hne
      exact walk_nil_head hq hw harb hother
    · exact walk_nil_head_claim hq hw harb hline
    · exact walk_nil_claim_head_check hq hw harb hm
    · rw [walk_nil_claim_head_force hq hw harb hm hr hb ho]
      simp [own, enqueue, preRead, State.setEntry]
  · intro hm
    rw [walk_nil, harb, offerFree_claim_check i (by simp [waitingHead_none hw]) hm]
    rfl
  · intro x w st b old hm hr hb ho
    rw [walk_nil, harb, offerFree_claim_force i (by simp [waitingHead_none hw]) hm,
      queueRestore_eq (s := setArbiter [] s) hr hb ho]
    rfl

/-! ### The check read's response -/

/-- A response to a check read goes to the engine, and the arbiter looks last (R106, R146). -/
theorem exec_checkReadResponse {o : Outstanding} {s : State} (h : s.answering o 72) (hk : o.req.kind = .read)
    (hlen : o.req.len = 64) {st : MemStatus} {data : List Byte} (hdata : st = .ok → data.length = 64) :
    ∃ line, exec (.checkReadResponse st data) s =
      .next (settle (checkResponded o.req.addr st line (closeTag 72 s))) ∧ (st = .ok → line = data) := by
  refine ⟨responseData o.req st data s.freeCount, ?_, ?_⟩
  · show Host.Outcome.next (routeResponse 72 st data s) = _
    rw [routeResponse_answering h, responseFree_exact s (fun _ hok => by rw [hlen]; exact hdata hok),
      ownerResponded_rollback (answering_tag h), hk]
  · rintro rfl
    exact responseData_exact _ hk (by rw [hlen]; exact hdata rfl)

theorem releaseChecking_lowest {s : State} {i : Nat} {a : Addr} {l : List Parked} (hi : i < 8)
    (he : s.entry i = .owned a .checking l) (hlow : ∀ j < i, (s.entry j).isChecking = false) :
    releaseChecking s = walk i l s := by
  have hfind : s.findEntry HoldEntry.isChecking = some i := findEntry_some hi (by rw [he]; rfl) hlow
  unfold releaseChecking
  rw [hfind]
  exact release_owned he

section
variable {s : State} {a : Addr} {line : List Byte} {r : Rec} {w : WriteInfo} {st : RecOutcome} {b : Bool}

theorem cursorInfo_eq (hr : s.ring.find s.rollback.cursor = some r) (hb : r.body = .write w st b) :
    s.cursorInfo = some w := by simp [State.cursorInfo, hr, hb]

/-- The span is as the write left it: the restore is queued, then the entry released (R106, R108). -/
theorem checkResponded_equal (hs : s.rollback.state = .checking) (hr : s.ring.find s.rollback.cursor = some r)
    (hb : r.body = .write w st b) (heq : (line.drop (w.addr.toNat % 64)).take w.len = w.newData) :
    checkResponded a .ok line s = releaseChecking (queueRestore s) := by
  simp [checkResponded, hs, cursorInfo_eq hr hb, spanEqual, lineOffset, heq]

theorem checkResponded_conflict (hs : s.rollback.state = .checking) (hr : s.ring.find s.rollback.cursor = some r)
    (hb : r.body = .write w st b) (hne : (line.drop (w.addr.toNat % 64)).take w.len ≠ w.newData) :
    checkResponded a .ok line s = conflict s := by
  simp [checkResponded, hs, cursorInfo_eq hr hb, spanEqual, lineOffset, hne]

/-- The mode decides what follows a conflict, once the entry is released (R106). -/
theorem conflict_skip (hm : s.rollback.mode = .checkSkip) : conflict s =
    advance (releaseChecking { s with rollback := { s.rollback with conflicts := s.rollback.conflicts + 1 } }) := by
  have hmode := (releaseChecking_work
    { s with rollback := { s.rollback with conflicts := s.rollback.conflicts + 1 } }).mode.trans hm
  simp [conflict, hmode]

theorem conflict_stop (hm : s.rollback.mode = .checkStop) : conflict s = endRollback .conflict
    (releaseChecking { s with rollback := { s.rollback with conflicts := s.rollback.conflicts + 1 } }) := by
  have hmode := (releaseChecking_work
    { s with rollback := { s.rollback with conflicts := s.rollback.conflicts + 1 } }).mode.trans hm
  simp [conflict, hmode]

end

/-- Settles O25: what the engine's parts do whole, then the response by the engine's state, its status and the compare. -/
theorem checkReadAnswered : Obligations.CheckReadAnswered := by
  refine ⟨fun s => ⟨fun i line parked hi he hlow => releaseChecking_lowest hi he hlow,
    fun r w st b old hr hb ho => queueRestore_eq hr hb ho, fun result => rfl, fun addr => offerFault_eq ..⟩, ?_⟩
  rintro o data s s' hans hk - hlen rfl
  refine ⟨fun r w st b hs hdata hr hb => ?_, fun hs => ?_, fun status p hs hp hdata => ?_⟩
  · obtain ⟨line, hexec, hline⟩ := exec_checkReadResponse (st := .ok) hans hk hlen fun _ => hdata
    obtain rfl := hline rfl
    rw [hexec]
    refine ⟨fun heq => ?_, fun hne hm => ?_, fun hne hm => ?_⟩
    · rw [checkResponded_equal (s := closeTag 72 s) hs hr hb heq]
    · rw [checkResponded_conflict (s := closeTag 72 s) hs hr hb hne, conflict_skip (s := closeTag 72 s) hm]
      rfl
    · rw [checkResponded_conflict (s := closeTag 72 s) hs hr hb hne, conflict_stop (s := closeTag 72 s) hm]
      rfl
  · obtain ⟨line, hexec, -⟩ := exec_checkReadResponse (st := .fault) (data := data) hans hk hlen (by simp)
    rw [hexec]
    simp [checkResponded, hs]
  · obtain ⟨line, hexec, -⟩ := exec_checkReadResponse (data := data) hans hk hlen hdata
    rw [hexec]
    have hend : checkResponded o.req.addr status line (closeTag 72 s) = endRollback p.result (closeTag 72 s) := by
      simp [checkResponded, endAborting, hs, hp]
    rw [hend]
    cases p <;> rfl

end Sys2Proof.Machine
end

section
/-! The refused write, the pre-read's response, engagement, and the laws at reset. -/

namespace Sys2Proof.Machine

/-! ### The pre-read's response -/

/-- Settles O12: the response goes to the entry, which resolves its write with what came, or after PREREAD_FAULT without. -/
theorem prereadResponseResolves : Obligations.PrereadResponseResolves := by
  intro i o line w parked s hans hk hlen he
  have htag := answering_tag hans
  have hroute : ∀ st data, (st = .ok → data.length = 64) → exec (.prereadResponse i st data) s =
      .next (settle (prereadResponded i.toNat st (responseData o.req st data s.freeCount)
        (closeTag (BitVec.ofNat 8 (64 + i.toNat)) s))) := fun st data hdata => by
    show Host.Outcome.next (routeResponse _ st data s) = _
    rw [routeResponse_answering hans, responseFree_exact s (fun _ hok => by rw [hlen]; exact hdata hok),
      ownerResponded_preread htag]
  refine ⟨fun data hdata => ?_, fun data => ?_⟩
  · rw [hroute .ok data fun _ => hdata, responseData_exact _ hk (by rw [hlen]; exact hdata)]
    simp [prereadResponded, he]
  · rw [hroute .fault data (by simp)]
    simp only [prereadResponded, closeTag_entry, he, offerFault_eq]
    rfl

/-! ### Records without a release -/

/-- `n` more records can be appended, and no slot wait ends: there is none, or the last number stays (R47). -/
def State.roomFor (n : Nat) (s : State) : Prop := s.ring.slotList = [] ∨ s.ring.nextSeq + n ≤ lastSeq

/-- `t` comes from `s` by at most `n` records, and no slot wait ended: the memory link, the hold table, the ingress queue and
the rollback engine are as before. -/
structure NoRelease (n : Nat) (s t : State) : Prop where
  mem : t.mem = s.mem
  hold : t.hold = s.hold
  ingress : t.ingress = s.ingress
  rollback : t.rollback = s.rollback
  slots : s.ring.slotList = [] → t.ring.slotList = []
  numbers : t.ring.nextSeq ≤ s.ring.nextSeq + n

namespace NoRelease

theorem refl (n : Nat) (s : State) : NoRelease n s s := ⟨rfl, rfl, rfl, rfl, id, by omega⟩

theorem trans {n m : Nat} {s t u : State} (h : NoRelease n s t) (k : NoRelease m t u) : NoRelease (n + m) s u :=
  ⟨k.mem.trans h.mem, k.hold.trans h.hold, k.ingress.trans h.ingress, k.rollback.trans h.rollback, k.slots ∘ h.slots,
    by have := h.numbers; have := k.numbers; omega⟩

theorem mono {n m : Nat} {s t : State} (h : NoRelease n s t) (hnm : n ≤ m) : NoRelease m s t :=
  { h with numbers := h.numbers.trans (by omega) }

theorem roomFor {n m : Nat} {s t : State} (h : NoRelease n s t) (hroom : s.roomFor (n + m)) : t.roomFor m := by
  rcases hroom with hs | hn
  · exact .inl (h.slots hs)
  · have := h.numbers
    exact .inr (by omega)

end NoRelease

theorem roomFor_mono {n m : Nat} {s : State} (h : s.roomFor m) (hnm : n ≤ m) : s.roomFor n :=
  h.imp_right fun hn => by omega

/-- With no slot wait a session stop releases nothing (R56). -/
theorem stopSession_noRelease {s : State} (h : s.ring.slotList = []) (r : StopReason) : NoRelease 0 s (stopSession r s) := by
  have hring := stopSession_ring r s
  rw [stopSession_eq, h] at hring ⊢
  exact ⟨rfl, rfl, rfl, rfl, fun _ => rfl, Nat.le_refl _⟩

theorem pushRec_noRelease (discard : Bool) (body : RecBody) (time : Time) (s : State) :
    NoRelease 1 s (pushRec discard body time s) := by
  constructor <;> simp

/-- The record that takes the last number ends the slot waits; where there is none, nothing is released (R47). -/
theorem exhaust_noRelease {s : State} (h : s.ring.slotList = []) : NoRelease 0 s (exhaust s) := by
  have hraise : NoRelease 0 s (raise .seqExhausted s) := by constructor <;> simp
  exact hraise.trans (stopSession_noRelease (s := raise .seqExhausted s) h _)

theorem no_slots_of_last {n : Nat} {s : State} (h : s.roomFor (n + 1)) (hlast : s.ring.nextSeq = lastSeq) :
    s.ring.slotList = [] := h.resolve_right (by omega)

section
variable {s : State}

theorem appendRec_noRelease (h : s.roomFor 1) (discard : Bool) (body : RecBody) (time : Time) :
    NoRelease 1 s (appendRec discard body time s) := by
  have hpush := pushRec_noRelease discard body time s
  unfold appendRec
  split
  next hlast => exact hpush.trans (exhaust_noRelease (hpush.slots (no_slots_of_last h hlast)))
  · exact hpush

theorem appendGap_noRelease (h : s.roomFor 1) (n : Nat) : NoRelease 1 s (appendGap n s) := by
  have hgap : NoRelease 0 s { s with ring := { s.ring with gap := 0 } } := by constructor <;> simp
  exact hgap.trans (appendRec_noRelease (s := { s with ring := { s.ring with gap := 0 } }) h ..)

theorem appendSkip_noRelease (h : s.roomFor 2) (body : RecBody) (time : Time) : NoRelease 2 s (appendSkip body time s) := by
  have hgap : ∀ n, NoRelease 1 s (appendGap n s) := appendGap_noRelease (roomFor_mono h (by omega))
  unfold appendSkip
  split
  · constructor <;> simp
  split
  · exact (appendRec_noRelease (roomFor_mono h (by omega)) ..).mono (by omega)
  split
  · exact (hgap _).mono (by omega)
  dsimp only
  split
  · exact (hgap _).trans (appendRec_noRelease ((hgap _).roomFor h) ..)
  · exact (hgap _).mono (by omega)

theorem appendArmed_noRelease (h : s.roomFor 1) (body : RecBody) (time : Time) :
    NoRelease 1 s (appendArmed body time s) := by
  unfold appendArmed
  split
  · exact NoRelease.refl ..
  · exact appendRec_noRelease h ..

theorem appendFired_noRelease (h : s.roomFor 1) (body : RecBody) (time : Time) :
    NoRelease 1 s (appendFired body time s) := by
  have hpost : NoRelease 1 s { pushRec false body time s with session :=
      { (pushRec false body time s).session with post := (pushRec false body time s).session.post + 1 } } := by
    constructor <;> simp
  unfold appendFired
  dsimp only
  split
  next hlast => exact hpost.trans (exhaust_noRelease (hpost.slots (no_slots_of_last h hlast)))
  split
  · constructor <;> simp
  · exact hpost

theorem appendRefused_noRelease (h : s.roomFor 2) (info : WriteInfo) : NoRelease 2 s (appendRefused info s) := by
  unfold appendRefused
  split
  · exact appendSkip_noRelease h ..
  · exact (appendArmed_noRelease (roomFor_mono h (by omega)) ..).mono (by omega)
  · exact (appendFired_noRelease (roomFor_mono h (by omega)) ..).mono (by omega)
  all_goals exact NoRelease.refl ..

/-- What the marker that takes the last number does after the fire releases nothing where no slot wait is (R47). -/
theorem markerStop_noRelease {t : State} (h : s.roomFor 1) (k : NoRelease 1 s t) :
    NoRelease 1 s (if s.ring.nextSeq = lastSeq then
      (if t.session.state = .fired then exhaust t else raise .seqExhausted t) else t) := by
  split
  next hlast =>
    split
    · exact k.trans (exhaust_noRelease (k.slots (no_slots_of_last h hlast)))
    · exact ⟨k.mem, k.hold, k.ingress, k.rollback, k.slots, k.numbers⟩
  · exact k

theorem fire_noRelease (h : s.roomFor 1) (c : Cause) : NoRelease 1 s (fire c s) := by
  have hmarker := pushRec_noRelease false (.trigger c) s.time.counter s
  unfold fire
  generalize pushRec false (.trigger c) s.time.counter s = s0 at hmarker ⊢
  have hfired : ∀ b x q, NoRelease 1 s (raiseIf b .captured (raise .fired { s0 with session := x, seqr := q })) := by
    intro b x q
    cases b <;> exact ⟨hmarker.mem, hmarker.hold, hmarker.ingress, hmarker.rollback, hmarker.slots, hmarker.numbers⟩
  exact markerStop_noRelease h (hfired ..)

theorem takeCount_noRelease (h : s.roomFor 1) : NoRelease 1 s (takeCount s) := by
  unfold takeCount
  split
  · constructor <;> simp
  split
  · constructor <;> simp
  · have hcount : NoRelease 0 s { s with seqr := { s.seqr with count := s.seqr.count + 1 } } := by constructor <;> simp
    exact hcount.trans (fire_noRelease (s := { s with seqr := { s.seqr with count := s.seqr.count + 1 } }) h _)

end

/-! ### The refused write -/

/-- The record step of a refusal, on the state with REFUSAL pending (R30). -/
def refusalRecord (info : WriteInfo) (hits : Set16) (s : State) : State :=
  if s.recording && s.recordSet hits != 0 then appendRefused info (raise .refusal s) else raise .refusal s

theorem resolve_refused {i : Nat} {line : Addr} {w : HeldWrite} {old : Option (List Byte)} {parked : List Parked} {s : State}
    (h : s.refuses (s.hitSet w old) = true) :
    resolve i line w old parked s = release i (respond w.req.tag .refused [] (countStep (s.counts (s.hitSet w old))
      (refusalRecord (recordInfo w (s.hitSet w old) old) (s.hitSet w old) s))) := by
  unfold resolve
  dsimp only
  rw [if_pos h]
  rfl

section
variable {s : State} {hits : Set16} (info : WriteInfo)

/-- No REFUSED record is made: the session does not record, or no window hit has record yes (R30, R69). -/
theorem refusalRecord_none (h : s.recording = false ∨ s.recordSet hits = 0) :
    refusalRecord info hits s = raise .refusal s := by
  rcases h with h | h <;> simp [refusalRecord, h]

theorem refusalRecord_due (h : s.recordSet hits ≠ 0) :
    refusalRecord info hits s = appendRefused info (raise .refusal s) := by
  unfold refusalRecord
  split
  · rfl
  next hno =>
    have hrec : s.recording = false := by
      rw [Bool.eq_false_iff]
      exact fun hrec => hno (by rw [hrec, bne_iff_ne.2 h]; rfl)
    have hstate : s.session.state = .idle ∨ s.session.state = .captured ∨ s.session.state = .stopped := by
      unfold State.recording at hrec
      cases hst : s.session.state <;> simp_all
    rcases hstate with hst | hst | hst <;> simp [appendRefused, hst]

theorem refusalRecord_work (hits : Set16) : Work (raise .refusal s) (refusalRecord info hits s) := by
  unfold refusalRecord
  split
  · exact appendRefused_work ..
  · exact Work.refl _

theorem refusalRecord_recWork (hits : Set16) : RecWork (raise .refusal s) (refusalRecord info hits s) := by
  unfold refusalRecord
  split
  · exact appendRefused_recWork ..
  · exact RecWork.refl _

theorem raise_noRelease (n : Nat) (e : Event) : NoRelease n s (raise e s) := by constructor <;> simp

/-- The record and the count of a refusal are at most two records: a GAP and the REFUSED one under SKIP, or the REFUSED one and
the marker of a fire (R52, R73). -/
theorem refusal_noRelease (h : s.roomFor 2) :
    NoRelease 2 s (countStep (s.counts hits) (refusalRecord info hits s)) := by
  have hraise : NoRelease 0 s (raise .refusal s) := raise_noRelease 0 _
  by_cases hc : s.counts hits = true
  · have hstate : s.session.state = .armed := by
      by_contra hne
      simp [counts_of_not_armed hne] at hc
    have hrec : NoRelease 1 s (refusalRecord info hits s) := by
      unfold refusalRecord
      split
      · simp only [appendRefused, raise_session, hstate]
        exact hraise.trans (appendArmed_noRelease (s := raise .refusal s) (roomFor_mono h (by omega)) ..)
      · exact raise_noRelease ..
    unfold countStep
    split
    · exact hrec.trans (takeCount_noRelease (hrec.roomFor h))
    · exact hrec.mono (by omega)
  · rw [Bool.not_eq_true] at hc
    rw [hc, countStep_false]
    unfold refusalRecord
    split
    · exact hraise.trans (appendRefused_noRelease (s := raise .refusal s) h _)
    · exact raise_noRelease ..

end

/-- Settles O13: the record step, the count and the answer of a refusal, then the release, by what each of them leaves. -/
theorem refusedWriteAnswered : Obligations.RefusedWriteAnswered := by
  rintro i line w old parked hits info s r u v rfl hrefuse hinfo rfl hu hv
  have hinfo : info = recordInfo w (s.hitSet w old) old := hinfo
  have hu : u = refusalRecord info (s.hitSet w old) s := by
    rw [hu]
    split
    next hnone => exact (refusalRecord_none info (.inr hnone)).symm
    next hdue =>
      rw [refusalRecord_due info hdue]
      unfold appendRefused
      rw [raise_session, raise_time]
      cases s.session.state <;> rfl
  have hv : v = countStep (s.counts (s.hitSet w old)) u := by rw [countStep_eq]; exact hv
  have hvhost : v.host = s.host := by
    rw [hv, (countStep_recWork _ u).host, hu, (refusalRecord_recWork info _).host, raise_host]
  have hresolve : resolve i line w old parked s = release i (respond w.req.tag .refused [] v) := by
    rw [resolve_refused hrefuse, hv, hu, hinfo]
  have hresponds : respond w.req.tag .refused [] v = { v with host := { s.host with
      credit := s.host.credit + 1, inPart := s.host.inPart.erase w.req.tag
      sent := s.host.sent ++ [.response w.req.tag .refused []] } } := by
    simp [respond, hvhost]
  have hrelease := release_holdWork i (respond w.req.tag .refused [] v)
  refine ⟨_, rfl, by rw [hresolve, hresponds], fun hroom => ?_, ?_, ?_, (resolve_work ..).windows, ?_, fun hquiet => ?_⟩
  · have hroom : s.roomFor 2 := hroom.imp_right fun hn => by simp only [lastSeq]; omega
    have hkept := refusal_noRelease (hits := s.hitSet w old) info hroom
    rw [← hu, ← hv] at hkept
    exact ⟨hkept.mem, hkept.hold, hkept.ingress, hkept.rollback⟩
  · rw [hresolve, hrelease.host, hresponds]
  · have hwork : Work (raise .refusal s) (release i (respond w.req.tag .refused [] v)) := by
      rw [hv, hu]
      exact ((refusalRecord_work info _).trans (countStep_work ..)).trans ((respond_work ..).trans (release_work ..))
    rw [hresolve]
    exact hwork.raised 6 (by simp [Event.set, Event.bit])
  · rw [hresolve, hrelease.outstanding, respond_mem, hv, (countStep_recWork _ u).outstanding, hu,
      (refusalRecord_recWork info _).outstanding, raise_mem]
  · have hquiet : (s.recording = false ∨ s.recordSet (s.hitSet w old) = 0) ∧ s.counts (s.hitSet w old) = false := by
      rcases hquiet with h | h | h | ⟨hnone, hc⟩
      · exact ⟨.inl (by simp [State.recording, h]), counts_of_not_armed (by simp [h]) _⟩
      · exact ⟨.inl (by simp [State.recording, h]), counts_of_not_armed (by simp [h]) _⟩
      · exact ⟨.inl (by simp [State.recording, h]), counts_of_not_armed (by simp [h]) _⟩
      · exact ⟨.inr hnone, hc⟩
    have hsame : v = raise .refusal s := by rw [hv, hu, hquiet.2, countStep_false, refusalRecord_none info hquiet.1]
    rw [hresolve, hrelease.ring, hrelease.session, hrelease.seqr, hrelease.drain, hsame]
    exact ⟨rfl, rfl, rfl, rfl⟩

/-! ### Engagement -/

section
variable {f : Frame} {s : State}

/-- One slot wait of the list ends: its write is queued, and its entry is released (R32, R55). -/
theorem releaseSlots_cons (count : Bool) {i : Nat} (rest : List Nat) {line : Addr} {w : HeldWrite} {old : Option (List Byte)}
    {d : Draft} {parked : List Parked} (he : s.entry i = .owned line (.slotWait w old d) parked) :
    releaseSlots count (i :: rest) s = releaseSlots count rest (walk i parked { s with
      ring := { s.ring with gap := if count then min (s.ring.gap + 1) 4294967295 else s.ring.gap }
      mem := { s.mem with queue := s.mem.queue ++
        [{ kind := w.req.kind, tag := w.req.tag.setWidth 8, addr := w.req.addr, len := w.req.len, data := w.req.data }] } }) := by
  have hgap : (if count then { s with ring := { s.ring with gap := saturate (s.ring.gap + 1) } } else s) =
      { s with ring := { s.ring with gap := if count then saturate (s.ring.gap + 1) else s.ring.gap } } := by
    cases count <;> rfl
  have he' : ∀ g, State.entry { s with ring := { s.ring with gap := g } } i = .owned line (.slotWait w old d) parked :=
    fun _ => he
  rw [releaseSlots]
  dsimp only
  rw [hgap, he']
  dsimp only
  refine congrArg (releaseSlots count rest) (release_owned (a := line) (o := .slotWait w old d) ?_)
  exact he

theorem exec_engage (h : s.resetHeld = false) :
    exec (.engage f) s = .next (answered .ok [] { framed f s with engaged := true }) :=
  congrArg Host.Outcome.next (portFrame_done h (Nat.zero_le _) rfl)

theorem exec_bypass (h : s.resetHeld = false) :
    exec (.bypass f) s = .next (answered .ok [] (if s.engaged then toBypass (framed f s) else framed f s)) :=
  congrArg Host.Outcome.next (portFrame_done h (Nat.zero_le _) rfl)

end

/-- Settles O37: the frames' ends, and the switch to BYPASS as slot releases followed by the end of the event. -/
theorem engageAndBypass : Obligations.EngageAndBypass := by
  refine ⟨fun count s => ⟨rfl, fun i rest line w old d parked he => releaseSlots_cons count rest he⟩, fun f s h => ?_⟩
  have hslotless : s.ring.slotList = [] → releaseSlots true s.ring.slotList { framed f s with engaged := false } =
      { framed f s with engaged := false } := fun hs => by
    rw [hs]
    simp only [releaseSlots, framed_ring]
    rw [← hs]
  have hbypass : s.engaged = true → exec (.bypass f) s = .next (answered .ok []
      (settle (releaseSlots true s.ring.slotList { framed f s with engaged := false }))) := fun he => by
    rw [exec_bypass h, if_pos he]
    rfl
  refine ⟨exec_engage h, fun he => ?_, ?_, fun he hs => ?_, fun he => ⟨_, hbypass he, ?_⟩⟩
  · rw [exec_bypass h, he]
    rfl
  · rintro he u rfl
    exact ⟨hbypass he, hslotless⟩
  · rw [hbypass he, hslotless hs]
  · have hfree := releaseSlots_does true s.ring.slotList { framed f s with engaged := false }
    generalize releaseSlots true s.ring.slotList { framed f s with engaged := false } = u at hfree hslotless
    have hgrant := settle_grantWork u
    have hring : (settle u).ring = { s.ring with
        slotList := [], gap := s.ring.slotList.foldl (fun g _ => saturate (g + 1)) s.ring.gap } :=
      hgrant.ring.trans hfree.ring
    have hdrain : u.drain = s.drain := hfree.drain
    have hport : (settle u).port = (framed f s).port := hgrant.port.trans hfree.port
    refine ⟨hgrant.engaged.trans hfree.engaged, by simp only [answered_port, hport], hgrant.session.trans hfree.session,
      hgrant.seqr.trans hfree.seqr, hgrant.windows.trans hfree.windows, hgrant.events.trans hfree.events,
      hgrant.host.trans hfree.host, hgrant.time.trans hfree.time, ?_, ?_, ?_, ?_, ?_, ?_, hgrant.credit.trans hfree.credit,
      (congrArg State.drain hgrant.same).trans (by rw [hdrain]; rfl), fun hr ho => ?_, fun hs => ?_, fun hg => ?_⟩
    iterate 6 simp only [answered_ring, hring]
    · exact (hgrant.idle (by rw [hdrain]; exact hr) (by rw [hdrain]; exact ho)).trans hdrain
    · rw [answered_hold, answered_ingress, answered_rollback, hgrant.hold, hgrant.ingress, hgrant.rollback, hslotless hs]
      exact ⟨rfl, rfl, rfl⟩
    · rw [answered_ring, hring]
      exact foldl_saturate _ hg

/-! ### The laws at reset -/

theorem stageAt_of_reset (i : Nat) : State.reset.stageAt i = Stage.reset := by
  by_cases hi : i < 8
  · simp [State.stageAt, State.reset, Sequencer.reset, hi]
  · rw [State.stageAt, Vector.getElem?_eq_none (by omega)]
    rfl

/-- Settles O51: each law, at the reset values of the fields it reads. -/
theorem lawsHoldAtReset : Obligations.LawsHoldAtReset := by
  refine ⟨?_, ?_, ?_, reset_lineLaw, ?_, ?_, ?_, windowLaw_reset rfl, ?_⟩
  · simp only [State.HostLaw]
    decide
  · simp only [State.CreditLaw]
    decide
  · simp only [State.GrantLaw]
    decide
  · simp only [State.RingLaw, Ring.numbered]
    decide
  · simp only [State.SessionLaw, stageAt_of_reset]
    refine ⟨by decide, by decide, by decide, by decide, by decide, by decide, by decide, by decide, by decide,
      fun i => by decide, by decide⟩
  · simp only [State.SpillLaw]
    decide
  · simp only [State.AnswerLaw]
    decide

end Sys2Proof.Machine
end

section
/-! Records joining the ring, operation by operation: one append, a GAP before it, the rows of a continuous session, and the
fire. -/

namespace Sys2Proof.Machine

/-! ### One append -/

/-- The last number by its value (R47). -/
theorem ne_lastSeq {n : Nat} (h : n < 4294967295) : n ≠ lastSeq := Nat.ne_of_lt h

/-- Two chances to raise one event are one chance. -/
theorem or_ite_or_ite (m e : Set16) (p q : Prop) [Decidable p] [Decidable q] :
    (m ||| if p then e else 0) ||| (if q then e else 0) = m ||| if p ∨ q then e else 0 := by
  by_cases hp : p <;> by_cases hq : q <;> simp [hp, hq, BitVec.or_assoc]

section
variable {s : State} (body : RecBody) (time : Time)

/-- With numbers left one append is the record, its pair and its number, and RING_THRESHOLD where the count reaches it (R43,
R46, R48, R57). -/
theorem appendRec_eq (hn : s.ring.nextSeq ≠ lastSeq) :
    appendRec false body time s = { s with
      ring := { s.ring with
        recs := s.ring.recs ++ [⟨s.ring.nextSeq, time, body⟩]
        outcomeMap := s.ring.outcomeMap ++ body.pairs s.ring.nextSeq
        nextSeq := s.ring.nextSeq + 1 }
      events := { s.events with pending := s.events.pending |||
        if s.ring.recs.length + 1 = s.ring.threshold then Event.ringThreshold.set else 0 } } := by
  rw [appendRec_of_ne hn, pushRec_eq]
  simp

/-- A record after a GAP, with numbers left for both (R52, R53). -/
theorem appendRec_appendGap (n : Nat) (hn : s.ring.nextSeq + 1 < lastSeq) :
    appendRec false body time (appendGap n s) = { s with
      ring := { s.ring with
        recs := s.ring.recs ++
          [⟨s.ring.nextSeq, s.time.counter, .gap n⟩, ⟨s.ring.nextSeq + 1, time, body⟩]
        outcomeMap := s.ring.outcomeMap ++ body.pairs (s.ring.nextSeq + 1)
        nextSeq := s.ring.nextSeq + 2, gap := 0 }
      events := { s.events with pending := s.events.pending |||
        if s.ring.recs.length + 1 = s.ring.threshold ∨ s.ring.recs.length + 2 = s.ring.threshold
        then Event.ringThreshold.set else 0 } } := by
  have hgap := appendGap_of_ne (s := s) (by omega) n
  rw [appendRec_eq body time (by rw [hgap]; simp only; omega), hgap]
  simp only [or_ite_or_ite, List.length_append, List.length_singleton, List.append_assoc, List.singleton_append, Nat.add_assoc]

end

/-! ### The rows of a continuous session -/

section
variable {s : State} (body : RecBody) (time : Time)

theorem appendSkip_full (h : s.ring.recs.length = 512) :
    appendSkip body time s = raise .ringFull { s with ring := { s.ring with gap := saturate (s.ring.gap + 1) } } := by
  simp [appendSkip, Ring.free, h]

theorem appendSkip_room (h : s.ring.recs.length < 512) (hgap : s.ring.gap = 0) :
    appendSkip body time s = appendRec false body time s := by
  have hfree : s.ring.free ≠ 0 := by simp only [Ring.free]; omega
  simp [appendSkip, hfree, hgap]

theorem appendSkip_lone (h : s.ring.recs.length = 511) (hgap : 0 < s.ring.gap) :
    appendSkip body time s = appendGap (saturate (s.ring.gap + 1)) s := by
  have hgap : s.ring.gap ≠ 0 := by omega
  simp [appendSkip, Ring.free, h, hgap]

theorem appendSkip_gap (h : s.ring.recs.length < 511) (hgap : 0 < s.ring.gap) :
    appendSkip body time s = if (appendGap s.ring.gap s).session.state = .running
      then appendRec false body time (appendGap s.ring.gap s) else appendGap s.ring.gap s := by
  have hzero : s.ring.free ≠ 0 := by simp only [Ring.free]; omega
  have hone : s.ring.free ≠ 1 := by simp only [Ring.free]; omega
  have hgap : s.ring.gap ≠ 0 := by omega
  simp [appendSkip, hzero, hone, hgap]

variable (d : Draft)

theorem appendHold_full (h : s.ring.recs.length = 512) : appendHold d s = (raise .ringFull s, true) := by
  simp [appendHold, Ring.free, h]

theorem appendHold_room (h : s.ring.recs.length < 512) (hgap : s.ring.gap = 0) :
    appendHold d s = (appendRec false d.body d.time s, false) := by
  have hfree : s.ring.free ≠ 0 := by simp only [Ring.free]; omega
  simp [appendHold, hfree, hgap]

theorem appendHold_gap (h : s.ring.recs.length < 512) (hgap : 0 < s.ring.gap) :
    appendHold d s = if (appendGap s.ring.gap s).session.state = .running
      then (if s.ring.recs.length = 511 then (appendGap s.ring.gap s, true)
        else (appendRec false d.body d.time (appendGap s.ring.gap s), false))
      else (appendGap s.ring.gap s, false) := by
  have hzero : s.ring.free ≠ 0 := by simp only [Ring.free]; omega
  have hone : s.ring.free = 1 ↔ s.ring.recs.length = 511 := by simp only [Ring.free]; omega
  have hgap : s.ring.gap ≠ 0 := by omega
  simp [appendHold, hzero, hone, hgap]

/-- A GAP stops the session exactly where it takes the last number (R47). -/
theorem appendGap_running_iff (hs : s.session.state = .running) (n : Nat) :
    (appendGap n s).session.state = .running ↔ s.ring.nextSeq ≠ lastSeq := by
  by_cases hlast : s.ring.nextSeq = lastSeq
  · simp [appendGap_last_session hlast, hlast]
  · rw [appendGap_of_ne hlast]
    simp [hs, hlast]

end

/-! ### The fire -/

/-- A fire before its marker stops anything (R73): the marker is in the ring, the session is FIRED, or CAPTURED with Q of 0, the
guards are in force, the sequencer is DONE, and the events are pending. -/
def fireMarked (cause : Cause) (s : State) : State :=
  { s with
    ring := { s.ring with
      recs := s.ring.recs ++ [⟨s.ring.nextSeq, s.time.counter, .trigger cause⟩], nextSeq := s.ring.nextSeq + 1 }
    session := { s.session with
      state := if s.session.q = 0 then .captured else .fired, post := 0, guardsInForce := true }
    seqr := { s.seqr with state := .done, elapsed := 0 }
    events := { s.events with pending :=
      s.events.pending ||| (if s.ring.recs.length + 1 = s.ring.threshold then Event.ringThreshold.set else 0) |||
        Event.fired.set ||| (if s.session.q = 0 then Event.captured.set else 0) } }

/-- A fire is the marked state, and a marker that takes the last number stops a FIRED session (R47, R73). -/
theorem fire_eq (cause : Cause) (s : State) :
    fire cause s = if s.ring.nextSeq = lastSeq
      then (if s.session.q = 0 then raise .seqExhausted (fireMarked cause s) else exhaust (fireMarked cause s))
      else fireMarked cause s := by
  have hpush := pushRec_eq false (.trigger cause) s.time.counter s
  simp only [Bool.false_eq_true, if_false, true_and, RecBody.pairs, List.append_nil] at hpush
  unfold fire
  rw [hpush]
  by_cases hq : s.session.q = 0 <;> simp [hq, raiseIf, raise, fireMarked]

end Sys2Proof.Machine
end

section
/-! The ring law at every step: the ring holds at most 512 records numbered up to next_seq minus one, and what the session's
state bounds beside that (R43, R46, R47, R70 to R72). -/

namespace Sys2Proof.Machine

/-! ### What the law reads -/

/-- `t` has the record numbers, the next number and the session of `s`. -/
structure RingKept (s t : State) : Prop where
  numbers : t.ring.recs.map Rec.seq = s.ring.recs.map Rec.seq
  nextSeq : t.ring.nextSeq = s.ring.nextSeq
  session : t.session = s.session

theorem RingKept.length {s t : State} (k : RingKept s t) : t.ring.recs.length = s.ring.recs.length := by
  simpa using congrArg List.length k.numbers

theorem RingKept.ringLaw {s t : State} (k : RingKept s t) (h : s.RingLaw) : t.RingLaw := by
  have hempty : t.ring.recs = [] ↔ s.ring.recs = [] := by
    rw [← List.length_eq_zero_iff, ← List.length_eq_zero_iff, k.length]
  have hrecording : t.recording = s.recording := by simp only [State.recording, k.session]
  unfold State.RingLaw Ring.numbered at h ⊢
  rw [k.numbers, k.nextSeq, k.length, k.session, hempty, hrecording]
  exact h

theorem HoldWork.ringKept {s t : State} (h : HoldWork s t) : RingKept s t :=
  ⟨by rw [h.ring], by rw [h.ring], h.session⟩

theorem RbWork.ringKept {s t : State} (h : RbWork s t) : RingKept s t :=
  ⟨h.numbers, by rw [h.ring], h.session⟩

theorem settle_ringLaw {s : State} (h : s.RingLaw) : (settle s).RingLaw :=
  have k := settle_grantWork s
  RingKept.ringLaw ⟨by rw [k.ring], by rw [k.ring], k.session⟩ h

/-! ### The law by the session's state -/

/-- What the law says of the ring alone, whatever the session. -/
structure State.RingSound (s : State) : Prop where
  numbered : s.ring.numbered
  atMost : s.ring.recs.length ≤ 512
  inRange : s.ring.nextSeq ≤ 4294967296

theorem State.RingLaw.sound {s : State} (h : s.RingLaw) : s.RingSound :=
  ⟨h.1, h.2.1, h.2.2.1⟩

section
variable {s : State}

theorem State.RingLaw.numbersLeft (h : s.RingLaw) (hs : s.recording = true) : s.ring.nextSeq < 4294967296 := by
  obtain ⟨-, -, -, hleft, -⟩ := h
  exact hleft hs

theorem State.RingLaw.idle (h : s.RingLaw) (hs : s.session.state = .idle) :
    s.ring.recs = [] ∧ s.ring.nextSeq = 0 := by
  obtain ⟨-, -, -, -, hidle, -⟩ := h
  exact hidle hs

theorem State.RingLaw.armed (h : s.RingLaw) (hs : s.session.state = .armed) :
    s.ring.recs.length ≤ s.session.p ∧ s.session.p + s.session.q ≤ 511 := by
  obtain ⟨-, -, -, -, -, harmed, -⟩ := h
  exact harmed hs

theorem State.RingLaw.fired (h : s.RingLaw) (hs : s.session.state = .fired) :
    s.ring.recs.length ≤ s.session.p + 1 + s.session.post ∧ s.session.post < s.session.q ∧
      s.session.p + s.session.q ≤ 511 := by
  obtain ⟨-, -, -, -, -, -, hfired⟩ := h
  exact hfired hs

theorem ringLaw_of_ended (h : s.RingSound) (hs : s.session.state = .captured ∨ s.session.state = .stopped) :
    s.RingLaw := by
  refine ⟨h.numbered, h.atMost, h.inRange, ?_, ?_, ?_, ?_⟩ <;> rcases hs with hs | hs <;> simp [State.recording, hs]

theorem ringLaw_of_running (h : s.RingSound) (hs : s.session.state = .running) (hleft : s.ring.nextSeq < 4294967296) :
    s.RingLaw := by
  refine ⟨h.numbered, h.atMost, h.inRange, fun _ => hleft, ?_, ?_, ?_⟩ <;> simp [hs]

theorem ringLaw_of_armed (h : s.RingSound) (hs : s.session.state = .armed) (hleft : s.ring.nextSeq < 4294967296)
    (hp : s.ring.recs.length ≤ s.session.p) (hpq : s.session.p + s.session.q ≤ 511) : s.RingLaw := by
  refine ⟨h.numbered, h.atMost, h.inRange, fun _ => hleft, ?_, fun _ => ⟨hp, hpq⟩, ?_⟩ <;> simp [hs]

theorem ringLaw_of_fired (h : s.RingSound) (hs : s.session.state = .fired) (hleft : s.ring.nextSeq < 4294967296)
    (hlen : s.ring.recs.length ≤ s.session.p + 1 + s.session.post) (hpost : s.session.post < s.session.q)
    (hpq : s.session.p + s.session.q ≤ 511) : s.RingLaw := by
  refine ⟨h.numbered, h.atMost, h.inRange, fun _ => hleft, ?_, ?_, fun _ => ⟨hlen, hpost, hpq⟩⟩ <;> simp [hs]

/-! ### One record -/

/-- A record joins a ring with room for it and with numbers left (R43, R46, R72). -/
theorem pushRec_sound (h : s.RingSound) {discard : Bool}
    (hroom : (if discard then s.ring.recs.tail else s.ring.recs).length < 512) (hleft : s.ring.nextSeq < 4294967296)
    (body : RecBody) (time : Time) : (pushRec discard body time s).RingSound := by
  refine ⟨?_, ?_, ?_⟩ <;> rw [pushRec_ring]
  · exact numbered_push h.numbered ..
  · rw [List.length_append]
    exact hroom
  · exact hleft

/-- A session stop leaves the records and the numbers (R56, R77). -/
theorem stopSession_ringLaw (h : s.RingSound) (r : StopReason) : (stopSession r s).RingLaw := by
  refine ringLaw_of_ended ⟨?_, ?_, ?_⟩ (.inr (by rw [stopSession_session])) <;> rw [stopSession_ring]
  · exact h.numbered
  · exact h.atMost
  · exact h.inRange

theorem exhaust_ringLaw (h : s.RingSound) : (exhaust s).RingLaw :=
  stopSession_ringLaw (s := raise .seqExhausted s) ⟨h.numbered, h.atMost, h.inRange⟩ _

/-- An append keeps the law where its push does, the last number apart: that one stops the session (R47). -/
theorem appendRec_ringLaw (h : s.RingLaw) (hs : s.recording = true) {discard : Bool}
    (hroom : (if discard then s.ring.recs.tail else s.ring.recs).length < 512) (body : RecBody) (time : Time)
    (hpush : s.ring.nextSeq + 1 < 4294967296 → (pushRec discard body time s).RingSound →
      (pushRec discard body time s).RingLaw) :
    (appendRec discard body time s).RingLaw := by
  have hleft := h.numbersLeft hs
  have hsound := pushRec_sound h.sound hroom hleft body time
  unfold appendRec
  split
  · exact exhaust_ringLaw hsound
  next hlast => exact hpush (by simp only [lastSeq] at hlast; omega) hsound

/-- A record joins the ring of a RUNNING session where a slot is free (R52, R53). -/
theorem appendRec_running_ringLaw (h : s.RingLaw) (hs : s.session.state = .running) (hroom : s.ring.recs.length < 512)
    (body : RecBody) (time : Time) : (appendRec false body time s).RingLaw :=
  appendRec_ringLaw (discard := false) h ((recording_iff s).2 (.inl hs)) hroom body time fun hleft hsound =>
    ringLaw_of_running hsound (by simpa using hs) (by simpa using hleft)

theorem appendGap_running_ringLaw (h : s.RingLaw) (hs : s.session.state = .running) (hroom : s.ring.recs.length < 512)
    (n : Nat) : (appendGap n s).RingLaw :=
  appendRec_running_ringLaw (s := { s with ring := { s.ring with gap := 0 } }) (RingKept.ringLaw ⟨rfl, rfl, rfl⟩ h) hs hroom ..

/-- A GAP that leaves the session RUNNING is one record more (R47, R51). -/
theorem appendGap_length {n : Nat} (hs : (appendGap n s).session.state = .running) :
    (appendGap n s).ring.recs.length = s.ring.recs.length + 1 := by
  by_cases hlast : s.ring.nextSeq = lastSeq
  · simp [appendGap_last_session hlast] at hs
  · rw [appendGap_of_ne hlast, List.length_append]
    rfl

/-! ### Continuous sessions -/

theorem appendSkip_ringLaw (h : s.RingLaw) (hs : s.session.state = .running) (body : RecBody) (time : Time) :
    (appendSkip body time s).RingLaw := by
  unfold appendSkip Ring.free
  split
  · exact RingKept.ringLaw ⟨rfl, rfl, rfl⟩ h
  split
  · exact appendRec_running_ringLaw h hs (by omega) ..
  split
  · exact appendGap_running_ringLaw h hs (by omega) _
  dsimp only
  have hgap := appendGap_running_ringLaw h hs (by omega) s.ring.gap
  split
  next hrun => exact appendRec_running_ringLaw hgap hrun (by rw [appendGap_length hrun]; omega) ..
  · exact hgap

theorem appendHold_ringLaw (h : s.RingLaw) (hs : s.session.state = .running) (d : Draft) : (appendHold d s).1.RingLaw := by
  unfold appendHold Ring.free
  split
  · exact RingKept.ringLaw ⟨rfl, rfl, rfl⟩ h
  split
  · exact appendRec_running_ringLaw h hs (by omega) ..
  dsimp only
  have hgap := appendGap_running_ringLaw h hs (by omega) s.ring.gap
  split
  next hrun =>
    split
    · exact hgap
    · exact appendRec_running_ringLaw hgap hrun (by rw [appendGap_length hrun]; omega) ..
  · exact hgap

theorem serveSlot_ringLaw (h : s.RingLaw) (hs : s.session.state = .running) (hroom : s.ring.recs.length < 512) (i : Nat)
    (w : HeldWrite) (d : Draft) (rest : List Nat) : (serveSlot i w d rest s).RingLaw :=
  (finishAhead_holdWork i w _).ringKept.ringLaw (appendRec_running_ringLaw
    (s := { s with ring := { s.ring with slotList := rest } }) (RingKept.ringLaw ⟨rfl, rfl, rfl⟩ h) hs hroom ..)

end

/-- The ring-slot arbiter serves only while a slot is free in a RUNNING session (R54). -/
theorem serveList_ringLaw : ∀ (l : List Nat) {s : State}, s.RingLaw → (serveList l s).RingLaw
  | [], _, h => h
  | i :: rest, s, h => by
    unfold serveList Ring.free
    split
    next hserve =>
      obtain ⟨hs, hfree⟩ := hserve
      split
      · split
        · exact serveList_ringLaw rest (serveSlot_ringLaw h hs (by omega) ..)
        · dsimp only
          have hgap := appendGap_running_ringLaw h hs (by omega) s.ring.gap
          split
          next hgo =>
            obtain ⟨hrun, hone⟩ := hgo
            exact serveList_ringLaw rest (serveSlot_ringLaw hgap hrun (by rw [appendGap_length hrun]; omega) ..)
          · exact hgap
      all_goals exact h
    · exact h

theorem serveSlots_ringLaw {s : State} (h : s.RingLaw) : (serveSlots s).RingLaw := serveList_ringLaw _ h

/-! ### Triggered sessions -/

section
variable {s : State}

/-- The ring stays within P: the oldest record leaves where the ring holds P (R70). -/
theorem appendArmed_ringLaw (h : s.RingLaw) (hs : s.session.state = .armed) (body : RecBody) (time : Time) :
    (appendArmed body time s).RingLaw := by
  obtain ⟨hp, hpq⟩ := h.armed hs
  unfold appendArmed
  split
  · exact h
  have hlen : (if decide (s.session.p ≤ s.ring.recs.length) = true then s.ring.recs.tail else s.ring.recs).length + 1 ≤
      s.session.p := by
    split
    next hfull =>
      have := of_decide_eq_true hfull
      rw [List.length_tail]
      omega
    next hroom =>
      have : ¬ s.session.p ≤ s.ring.recs.length := fun hle => hroom (decide_eq_true hle)
      omega
  refine appendRec_ringLaw h ((recording_iff s).2 (.inr (.inl hs))) (by omega) body time fun hleft hsound =>
    ringLaw_of_armed hsound (by simpa using hs) (by simpa using hleft) ?_ (by simpa using hpq)
  rw [pushRec_ring, pushRec_session, List.length_append]
  exact hlen

/-- The record counts toward Q, and P, the marker and Q records have room in the ring (R71, R72). -/
theorem appendFired_ringLaw (h : s.RingLaw) (hs : s.session.state = .fired) (body : RecBody) (time : Time) :
    (appendFired body time s).RingLaw := by
  obtain ⟨hlen, hpost, hpq⟩ := h.fired hs
  have hleft := h.numbersLeft ((recording_iff s).2 (.inr (.inr hs)))
  have hsound := pushRec_sound (discard := false) h.sound (by simp only [Bool.false_eq_true, if_false]; omega) hleft body time
  have hsound : ∀ x e, ({ pushRec false body time s with session := x, events := e } : State).RingSound := fun _ _ =>
    ⟨hsound.numbered, hsound.atMost, hsound.inRange⟩
  unfold appendFired
  dsimp only
  split
  · exact exhaust_ringLaw (hsound _ (pushRec false body time s).events)
  next hlast =>
    split
    · exact ringLaw_of_ended (hsound ..) (.inl rfl)
    next hq =>
      simp only [pushRec_session] at hq ⊢
      refine ringLaw_of_fired (hsound _ (pushRec false body time s).events) hs ?_ ?_ ?_ hpq <;>
        simp only [pushRec_ring, lastSeq, List.length_append, List.length_singleton, Bool.false_eq_true, if_false] at hlast ⊢ <;>
        omega

theorem appendRefused_ringLaw (h : s.RingLaw) (info : WriteInfo) : (appendRefused info s).RingLaw := by
  unfold appendRefused
  split
  next hs => exact appendSkip_ringLaw h hs ..
  next hs => exact appendArmed_ringLaw h hs ..
  next hs => exact appendFired_ringLaw h hs ..
  all_goals exact h

theorem appendWrite_ringLaw (h : s.RingLaw) (d : Draft) : (appendWrite d s).1.RingLaw := by
  unfold appendWrite
  split
  next hs =>
    split
    · exact appendHold_ringLaw h hs d
    · exact appendSkip_ringLaw h hs ..
  next hs => exact appendArmed_ringLaw h hs ..
  next hs => exact appendFired_ringLaw h hs ..
  all_goals exact h

/-! ### The fire and the count -/

/-- The marker joins at most P records, and P plus the marker have room in the ring (R72, R73). -/
theorem fire_ringLaw (h : s.RingLaw) (hs : s.session.state = .armed) (c : Cause) : (fire c s).RingLaw := by
  obtain ⟨hp, hpq⟩ := h.armed hs
  have hleft := h.numbersLeft ((recording_iff s).2 (.inr (.inl hs)))
  have hmarked : (fireMarked c s).RingSound := by
    have hpush := pushRec_sound (discard := false) h.sound (by simp only [Bool.false_eq_true, if_false]; omega) hleft
      (.trigger c) s.time.counter
    have hnum := hpush.numbered
    have hmost := hpush.atMost
    have hrange := hpush.inRange
    rw [pushRec_ring] at hnum hmost hrange
    exact ⟨hnum, hmost, hrange⟩
  rw [fire_eq]
  split
  · split
    next hq =>
      exact RingKept.ringLaw (s := fireMarked c s) ⟨rfl, rfl, rfl⟩ (ringLaw_of_ended hmarked (.inl (if_pos hq)))
    · exact exhaust_ringLaw hmarked
  next hlast =>
    by_cases hq : s.session.q = 0
    · exact ringLaw_of_ended hmarked (.inl (if_pos hq))
    · refine ringLaw_of_fired hmarked (if_neg hq) ?_ ?_ (Nat.pos_of_ne_zero hq) hpq <;>
        simp only [fireMarked, lastSeq, List.length_append, List.length_singleton] at hlast ⊢ <;> omega

theorem takeCount_ringLaw (h : s.RingLaw) (hs : s.session.state = .armed) : (takeCount s).RingLaw := by
  unfold takeCount
  split
  · exact RingKept.ringLaw ⟨rfl, rfl, rfl⟩ h
  split
  · exact RingKept.ringLaw ⟨rfl, rfl, rfl⟩ h
  · exact fire_ringLaw (s := { s with seqr := { s.seqr with count := s.seqr.count + 1 } })
      (RingKept.ringLaw ⟨rfl, rfl, rfl⟩ h) hs _

/-- A count is taken in ARMED only: the record before it may have stopped the session, which idles the sequencer (R29, R88). -/
theorem countStep_ringLaw (h : s.RingLaw) {b : Bool}
    (hb : b = true → s.seqr.state = .counting → s.session.state = .armed) : (countStep b s).RingLaw := by
  rw [countStep_eq]
  split
  next hcount => exact takeCount_ringLaw h (hb hcount.1 hcount.2)
  · exact h

theorem armed_of_counts {hits : Set16} (h : s.counts hits = true) : s.session.state = .armed := by
  by_contra hne
  simp [counts_of_not_armed hne] at h

/-- A record that is due in ARMED leaves the session ARMED, or stops it and idles the sequencer (R47, R70). -/
theorem appendArmed_armed (hs : s.session.state = .armed) {body : RecBody} {time : Time}
    (hseq : (appendArmed body time s).seqr.state = .counting) : (appendArmed body time s).session.state = .armed := by
  unfold appendArmed at hseq ⊢
  split
  · exact hs
  next hp =>
    rw [if_neg hp] at hseq
    by_cases hlast : s.ring.nextSeq = lastSeq
    · rw [appendRec_of_eq hlast, stopSession_seqr] at hseq
      simp at hseq
    · rw [appendRec_of_ne hlast, pushRec_session]
      exact hs

/-! ### Resolution -/

theorem resolveRefused_ringLaw (h : s.RingLaw) (i : Nat) (w : HeldWrite) (old : Option (List Byte)) (hits : Set16) :
    (resolveRefused i w old hits s).RingLaw := by
  have hraise : (raise .refusal s).RingLaw := RingKept.ringLaw ⟨rfl, rfl, rfl⟩ h
  have hcount : (countStep (s.counts hits) (refusalRecord (recordInfo w hits old) hits s)).RingLaw := by
    unfold refusalRecord
    split
    · refine countStep_ringLaw (appendRefused_ringLaw hraise _) fun hc hseq => ?_
      have harmed : (raise .refusal s).session.state = .armed := armed_of_counts hc
      simp only [appendRefused, harmed] at hseq ⊢
      exact appendArmed_armed harmed hseq
    · exact countStep_ringLaw hraise fun hc _ => armed_of_counts hc
  exact (release_holdWork i _).ringKept.ringLaw
    (RingKept.ringLaw (t := respond w.req.tag .refused [] _) ⟨rfl, rfl, rfl⟩ hcount)

theorem waitForSlot_ringLaw (h : s.RingLaw) (i : Nat) (a : Addr) (w : HeldWrite) (old : Option (List Byte)) (d : Draft)
    (l : List Parked) : (waitForSlot i a w old d l s).RingLaw := RingKept.ringLaw ⟨rfl, rfl, rfl⟩ h

theorem resolveAhead_ringLaw (h : s.RingLaw) (i : Nat) (a : Addr) (w : HeldWrite) (old : Option (List Byte))
    (l : List Parked) (hits : Set16) : (resolveAhead i a w old l hits s).RingLaw := by
  have finish : ∀ {t : State}, t.RingLaw → (finishAhead i w t).RingLaw := (finishAhead_holdWork i w _).ringKept.ringLaw
  unfold resolveAhead
  dsimp only
  split
  · have happend := appendWrite_ringLaw h { time := s.time.counter, info := recordInfo w (s.recordSet hits) old }
    split
    next t ht =>
      rw [ht] at happend
      exact waitForSlot_ringLaw happend ..
    next t ht =>
      rw [ht] at happend
      refine finish (countStep_ringLaw happend fun hc hseq => ?_)
      have harmed := armed_of_counts hc
      rw [appendWrite_armed _ harmed] at ht
      obtain rfl := (Prod.mk.inj ht).1
      exact appendArmed_armed harmed hseq
  · exact finish (countStep_ringLaw h fun hc _ => armed_of_counts hc)

theorem resolve_ringLaw (h : s.RingLaw) (i : Nat) (a : Addr) (w : HeldWrite) (old : Option (List Byte)) (l : List Parked) :
    (resolve i a w old l s).RingLaw := by
  unfold resolve
  dsimp only
  split
  · exact resolveRefused_ringLaw h ..
  · exact resolveAhead_ringLaw h ..

/-! ### Records that leave -/

/-- The oldest records may leave at any time (R43, R62, R124). -/
theorem ringLaw_drop (h : s.RingLaw) (n : Nat) :
    State.RingLaw { s with ring := { s.ring with recs := s.ring.recs.drop n } } := by
  have hlen : (s.ring.recs.drop n).length ≤ s.ring.recs.length := by
    rw [List.length_drop]
    omega
  obtain ⟨hnum, hmost, hrange, hleft, hidle, harmed, hfired⟩ := h
  exact ⟨numbered_drop hnum n, hlen.trans hmost, hrange, hleft,
    fun hs => ⟨by rw [show s.ring.recs = [] from (hidle hs).1]; exact List.drop_nil, (hidle hs).2⟩,
    fun hs => ⟨hlen.trans (harmed hs).1, (harmed hs).2⟩, fun hs => ⟨hlen.trans (hfired hs).1, (hfired hs).2⟩⟩

theorem releaseThrough_ringLaw (h : s.RingLaw) (n : Nat) : (releaseThrough n s).RingLaw := by
  obtain ⟨k, hk⟩ : ∃ k, s.ring.recs.dropWhile (fun r => decide (r.seq ≤ n)) = s.ring.recs.drop k :=
    ⟨_, List.dropWhile_eq_drop_findIdx_not ..⟩
  unfold releaseThrough
  rw [hk]
  exact ringLaw_drop h k

theorem retireAll_ringLaw (h : s.RingLaw) : (retireAll s).RingLaw := by
  obtain ⟨k, items, rest, -, hr, -⟩ := retire_does s.drain.inFlight s rfl
  have hretire : (retire s.drain.inFlight s).RingLaw := by
    rw [hr]
    exact RingKept.ringLaw ⟨rfl, rfl, rfl⟩ (ringLaw_drop h k)
  refine serveSlots_ringLaw ?_
  unfold raiseIf
  split
  · exact RingKept.ringLaw ⟨rfl, rfl, rfl⟩ hretire
  · exact hretire

/-! ### Responses -/

theorem offerFault_ringLaw (h : s.RingLaw) (k : FaultKind) (p : FaultPort) (t : MemTag) (a : Option Addr) :
    (offerFault k p t a s).RingLaw := by
  rw [offerFault_eq]
  exact RingKept.ringLaw ⟨rfl, rfl, rfl⟩ h

theorem drainQuiesce_ringLaw (h : s.RingLaw) : (drainQuiesce s).RingLaw := by
  unfold drainQuiesce
  repeat' split
  all_goals exact RingKept.ringLaw ⟨rfl, rfl, rfl⟩ h

theorem drainResponded_ringLaw (h : s.RingLaw) (o : Outstanding) (st : MemStatus) : (drainResponded o st s).RingLaw := by
  unfold drainResponded
  split
  · split
    · exact drainQuiesce_ringLaw h
    · exact drainQuiesce_ringLaw (retireAll_ringLaw (RingKept.ringLaw ⟨rfl, rfl, rfl⟩ h))
  · have hfault := offerFault_ringLaw (s := raise .drainFault s) (RingKept.ringLaw ⟨rfl, rfl, rfl⟩ h) .drainFault .memory
      o.req.tag (some o.req.addr)
    dsimp only
    split
    · exact drainQuiesce_ringLaw hfault
    · exact drainQuiesce_ringLaw (RingKept.ringLaw ⟨rfl, rfl, rfl⟩ hfault)

theorem setOutcome_seq (r : Rec) (o : RecOutcome) : (r.setOutcome o).seq = r.seq := by
  unfold Rec.setOutcome
  split <;> rfl

/-- A record that takes its outcome keeps its number (R49). -/
theorem setOutcome_ringKept (tag : HostTag) (o : RecOutcome) (s : State) : RingKept s (setOutcome tag o s) := by
  unfold setOutcome
  split
  · exact ⟨rfl, rfl, rfl⟩
  · refine ⟨?_, rfl, rfl⟩
    simp only [List.map_map]
    refine List.map_congr_left fun r _ => ?_
    rw [Function.comp_apply]
    split
    · exact setOutcome_seq r o
    · rfl

theorem hostResponded_ringLaw (h : s.RingLaw) (m : MemReq) (st : MemStatus) (data : List Byte) :
    (hostResponded m st data s).RingLaw := by
  unfold hostResponded
  split
  · split <;> exact RingKept.ringLaw ⟨rfl, rfl, rfl⟩ h
  · exact RingKept.ringLaw ⟨rfl, rfl, rfl⟩ ((setOutcome_ringKept (m.tag.setWidth 6) (outcomeOf st) s).ringLaw h)

theorem prereadResponded_ringLaw (h : s.RingLaw) (i : Nat) (st : MemStatus) (data : List Byte) :
    (prereadResponded i st data s).RingLaw := by
  unfold prereadResponded
  split
  · split
    · exact resolve_ringLaw h ..
    · exact resolve_ringLaw (offerFault_ringLaw (s := raise .prereadFault s) (RingKept.ringLaw ⟨rfl, rfl, rfl⟩ h) ..) ..
  all_goals exact h

theorem ownerResponded_ringLaw (h : s.RingLaw) (o : Outstanding) (st : MemStatus) (data : List Byte) :
    (ownerResponded o st data s).RingLaw := by
  unfold ownerResponded
  split
  · exact hostResponded_ringLaw h ..
  split
  · exact prereadResponded_ringLaw h ..
  split
  · split
    · exact (checkResponded_rbWork ..).ringKept.ringLaw h
    · exact (restoreResponded_rbWork ..).ringKept.ringLaw h
  · exact drainResponded_ringLaw h ..

theorem useFree_ringLaw (h : s.RingLaw) (n : Nat) (data : List Byte) : (useFree n data s).RingLaw := by
  unfold useFree
  split
  · exact h
  · exact RingKept.ringLaw ⟨rfl, rfl, rfl⟩ h

theorem routeResponse_ringLaw (h : s.RingLaw) (tag : MemTag) (st : MemStatus) (data : List Byte) :
    (routeResponse tag st data s).RingLaw := by
  unfold routeResponse
  split
  · exact h
  split
  · exact offerFault_ringLaw (s := raise .strayResponse s) (RingKept.ringLaw ⟨rfl, rfl, rfl⟩ h) ..
  next o _ =>
    have hfree : (responseFree o.req st data s).RingLaw := by
      unfold responseFree
      split
      · exact useFree_ringLaw h ..
      all_goals exact h
    exact settle_ringLaw (ownerResponded_ringLaw (RingKept.ringLaw (t := closeTag tag _) ⟨rfl, rfl, rfl⟩ hfree) ..)

/-! ### Requests and their classification -/

theorem violation_ringLaw (h : s.RingLaw) (r : HostReq) : (violation r s).RingLaw :=
  offerFault_ringLaw (s := raise .protocol s) (RingKept.ringLaw ⟨rfl, rfl, rfl⟩ h) ..

theorem arrive_ringLaw (h : s.RingLaw) (r : HostReq) : (arrive r s).RingLaw := by
  unfold arrive
  split
  · exact violation_ringLaw h r
  split
  · exact violation_ringLaw (s := { s with host := { s.host with sent := s.host.sent ++ [.creditReturn] } })
      (RingKept.ringLaw ⟨rfl, rfl, rfl⟩ h) r
  · exact RingKept.ringLaw ⟨rfl, rfl, rfl⟩ h

theorem classifyHead_ringLaw (h : s.RingLaw) (r : HostReq) : (classifyHead r s).RingLaw := by
  have hpop : (popHead s).RingLaw := RingKept.ringLaw ⟨rfl, rfl, rfl⟩ h
  unfold classifyHead
  split
  · exact RingKept.ringLaw ⟨rfl, rfl, rfl⟩ (violation_ringLaw hpop r)
  split
  · exact (park_holdWork ..).ringKept.ringLaw hpop
  split
  · exact RingKept.ringLaw ⟨rfl, rfl, rfl⟩ hpop
  split
  next i hfree => exact (takeEntry_holdWork i _ _ (freeEntry_eq_some hfree).1).ringKept.ringLaw hpop
  · exact RingKept.ringLaw ⟨rfl, rfl, rfl⟩ h

/-! ### Commands of the port -/

theorem ringLaw_of_reset {t : State} (hring : t.ring.recs = []) (hnext : t.ring.nextSeq = 0)
    (hs : t.session.state = .idle) : t.RingLaw := by
  unfold State.RingLaw Ring.numbered
  rw [hring, hnext]
  simp [hs]

/-- A clear leaves an empty ring, its numbers from 0, in an IDLE session (R63, R79), whatever it does to the drain. -/
theorem clearSessionWork_ringLaw {dc : State → State} (hd : ∀ t, RingKept t (dc t)) (s : State) :
    (clearSessionWork dc s).RingLaw := by
  obtain ⟨t, ht, hwork⟩ := clearSessionWork_does dc s
  have hcleared : (sessionCleared s).RingLaw := ringLaw_of_reset rfl rfl rfl
  rw [ht]
  exact (hd _).ringLaw ((endEarly_rbWork ..).ringKept.ringLaw (hwork.ringKept.ringLaw hcleared))

theorem clearScope_ringLaw (scope : ClearScope) (h : s.RingLaw) : (clearScope scope s).RingLaw := by
  cases scope with
  | session =>
    exact settle_ringLaw (clearSessionWork_ringLaw (fun t => by rw [drainClearSession_same]; exact ⟨rfl, rfl, rfl⟩) s)
  | windows => exact RingKept.ringLaw ⟨rfl, rfl, rfl⟩ h
  | events => exact RingKept.ringLaw ⟨rfl, rfl, rfl⟩ h
  | all =>
    exact settle_ringLaw (clearSessionWork_ringLaw (fun t => by rw [drainClearAll_same]; exact ⟨rfl, rfl, rfl⟩) _)

theorem releaseSlots_ringLaw (h : s.RingLaw) (b : Bool) (l : List Nat) : (releaseSlots b l s).RingLaw :=
  (releaseSlots_does b l s).ringKept.ringLaw (RingKept.ringLaw ⟨rfl, rfl, rfl⟩ h)

theorem startArg_triggered {args : List Byte} {a : StartArgs} (h : startArg args = some a) (hk : a.kind = .triggered) :
    a.p + a.q ≤ 511 := by
  unfold startArg at h
  split at h
  next kind policy _ _ =>
    dsimp only at h
    split at h
    · simp at h
    next hok =>
      obtain rfl := Option.some.inj h
      dsimp only at hk ⊢
      push Not at hok
      obtain ⟨-, -, -, -, hsum⟩ := hok
      exact hsum hk
  · simp at h

/-- A session starts from IDLE, where the ring is empty (R67, R68). -/
theorem startSession_ringLaw (h : s.RingLaw) (hs : s.session.state = .idle) {a : StartArgs}
    (ha : a.kind = .triggered → a.p + a.q ≤ 511) : (startSession a s).RingLaw := by
  obtain ⟨hempty, hzero⟩ := h.idle hs
  have hsound := h.sound
  unfold startSession
  split
  · refine settle_ringLaw (ringLaw_of_running ⟨hsound.numbered, hsound.atMost, hsound.inRange⟩ rfl ?_)
    rw [show s.ring.nextSeq = 0 from hzero]
    decide
  next hk =>
    refine ringLaw_of_armed ⟨hsound.numbered, hsound.atMost, hsound.inRange⟩ rfl ?_ ?_ (ha hk)
    · rw [show s.ring.nextSeq = 0 from hzero]
      decide
    · rw [show s.ring.recs = [] from hempty]
      exact Nat.zero_le _

theorem runSessionStart_ringLaw (h : s.RingLaw) (args : List Byte) : (runSessionStart args s).state.RingLaw := by
  unfold runSessionStart
  split
  · exact h
  next a ha =>
    split
    · exact h
    next hidle =>
      split
      · exact h
      · exact startSession_ringLaw h (not_not.1 hidle) (startArg_triggered ha)

theorem runRingRelease_ringLaw (h : s.RingLaw) (args : List Byte) : (runRingRelease args s).state.RingLaw := by
  unfold runRingRelease
  split
  · exact h
  split
  · exact h
  · exact settle_ringLaw (serveSlots_ringLaw (releaseThrough_ringLaw h _))

theorem runSpillSet_ringLaw (h : s.RingLaw) (args : List Byte) : (runSpillSet args s).state.RingLaw := by
  unfold runSpillSet
  split
  · exact h
  split
  · exact h
  split
  · exact h
  · rw [done_state]
    unfold spillSet
    split
    · exact RingKept.ringLaw ⟨rfl, rfl, rfl⟩ h
    · exact settle_ringLaw (RingKept.ringLaw ⟨rfl, rfl, rfl⟩ h)

theorem runSpillConsume_ringLaw (h : s.RingLaw) (args : List Byte) : (runSpillConsume args s).state.RingLaw := by
  unfold runSpillConsume
  dsimp only
  split
  · exact h
  · exact settle_ringLaw (RingKept.ringLaw ⟨rfl, rfl, rfl⟩ h)

theorem runDrainRestart_ringLaw (h : s.RingLaw) : (runDrainRestart s).state.RingLaw := by
  unfold runDrainRestart
  split
  · exact settle_ringLaw (RingKept.ringLaw ⟨rfl, rfl, rfl⟩ h)
  all_goals exact h

theorem runRollbackStart_ringLaw (h : s.RingLaw) (args : List Byte) : (runRollbackStart args s).state.RingLaw := by
  unfold runRollbackStart
  dsimp only
  split
  · exact h
  split
  · exact h
  split
  · exact h
  split
  · exact h
  split
  · exact h
  · exact settle_ringLaw ((visit_rbWork ..).ringKept.ringLaw (RingKept.ringLaw ⟨rfl, rfl, rfl⟩ h))

theorem seqTick_ringLaw (h : s.RingLaw) : (seqTick s).RingLaw := by
  unfold seqTick
  repeat' split
  all_goals exact RingKept.ringLaw ⟨rfl, rfl, rfl⟩ h

theorem tickAll_ringLaw (h : s.RingLaw) : (tickAll s).RingLaw := by
  unfold tickAll
  split
  · exact h
  · exact seqTick_ringLaw (RingKept.ringLaw ⟨rfl, rfl, rfl⟩ h)

theorem portFrame_ringLaw {code : Byte} {argc : Nat} {run : List Byte → State → Reply} {f : Frame} (hs : s.RingLaw)
    (h : ∀ t : State, t.RingLaw → (run f.args t).state.RingLaw) : (portFrame code argc run f s).RingLaw :=
  portFrame_preserves (P := State.RingLaw) (fun _ _ => RingKept.ringLaw ⟨rfl, rfl, rfl⟩) hs h

end

/-! ### Every command -/

/-- Every command keeps the ring law. -/
theorem exec_ringLaw {c : Instr} {s t : State} (hs : s.RingLaw) (h : exec c s = .next t) : t.RingLaw := by
  have next : ∀ {u : State}, u.RingLaw → (.next u : Host.Outcome State Fault Refusal) = .next t → t.RingLaw :=
    fun hu e => Host.Outcome.next.inj e ▸ hu
  have kept : ∀ {u v : State}, u.RingLaw → RingKept u v → v.RingLaw := fun hu k => k.ringLaw hu
  cases c with
  | pinReset => exact next (ringLaw_of_reset rfl rfl rfl) h
  | resetNRelease | hostCreditOffer | emptyFrame => exact next (by split <;> exact kept hs ⟨rfl, rfl, rfl⟩) h
  | readReq => exact next (by split <;> [exact hs; exact arrive_ringLaw hs _]) h
  | writeReq => exact next (by split <;> [exact hs; exact arrive_ringLaw (useFree_ringLaw hs ..) _]) h
  | creditAnnouncement => exact next (by split <;> [exact hs; exact settle_ringLaw (kept hs ⟨rfl, rfl, rfl⟩)]) h
  | classification =>
    refine next ?_ h
    split
    · exact hs
    split
    · exact hs
    · exact hs
    · exact settle_ringLaw (classifyHead_ringLaw hs _)
  | tick | stageExpiry => exact next (tickAll_ringLaw hs) h
  | prereadResponse | memoryResponse | checkReadResponse | restoreResponse | drainResponse | strayResponse =>
    exact next (routeResponse_ringLaw hs ..) h
  | clearSession | clearWindows | clearEvents | clearAll =>
    refine next (portFrame_ringLaw hs fun u hu => ?_) h
    unfold runClear
    split
    · exact clearScope_ringLaw _ hu
    · exact hu
  | bypass =>
    refine next (portFrame_ringLaw hs fun u hu => ?_) h
    rw [done_state]
    split
    · exact settle_ringLaw (releaseSlots_ringLaw (s := { u with engaged := false }) (kept hu ⟨rfl, rfl, rfl⟩) ..)
    · exact hu
  | sessionStart => exact next (portFrame_ringLaw hs fun u hu => runSessionStart_ringLaw hu _) h
  | sessionStop =>
    refine next (portFrame_ringLaw hs fun u hu => ?_) h
    unfold runSessionStop
    split
    · exact settle_ringLaw (stopSession_ringLaw hu.sound _)
    · exact hu
  | seqFire =>
    refine next (portFrame_ringLaw hs fun u hu => ?_) h
    unfold runSeqFire
    split
    next harmed => exact fire_ringLaw hu harmed _
    · exact hu
  | ringRelease => exact next (portFrame_ringLaw hs fun u hu => runRingRelease_ringLaw hu _) h
  | rollbackAbort =>
    refine next (portFrame_ringLaw hs fun u hu => ?_) h
    unfold runRollbackAbort
    split
    · exact hu
    · exact settle_ringLaw ((endEarly_rbWork ..).ringKept.ringLaw hu)
  | rollbackStart => exact next (portFrame_ringLaw hs fun u hu => runRollbackStart_ringLaw hu _) h
  | spillSet => exact next (portFrame_ringLaw hs fun u hu => runSpillSet_ringLaw hu _) h
  | spillConsume => exact next (portFrame_ringLaw hs fun u hu => runSpillConsume_ringLaw hu _) h
  | drainRestart => exact next (portFrame_ringLaw hs fun u hu => runDrainRestart_ringLaw hu) h
  | winSet | winGet | winEnable | winDisable | seqSet | seqGet | seqLength | ringRead | holdRead =>
    refine next (portFrame_ringLaw hs fun u hu => ?_) h
    simp only [runWinSet, runWinGet, runWinEnabled, runSeqSet, runSeqGet, runSeqLength, runRingRead, runHoldRead]
    repeat' split
    all_goals exact kept hu ⟨rfl, rfl, rfl⟩
  | _ => exact next (portFrame_ringLaw hs fun u hu => kept hu ⟨rfl, rfl, rfl⟩) h

/-- Settles O55: a command keeps the law, and a period of REFCLK touches neither ring nor session. -/
theorem ringLawKept : Obligations.RingLawKept := by
  intro s t hs h
  rcases step_cases h with rfl | ⟨c, rest, hc⟩
  · unfold refclkPeriod
    split
    · exact hs
    split
    · exact RingKept.ringLaw ⟨rfl, rfl, rfl⟩ hs
    · exact tickAll_ringLaw hs
  · exact exec_ringLaw (s := { s with pending := rest }) (RingKept.ringLaw ⟨rfl, rfl, rfl⟩ hs) hc

end Sys2Proof.Machine
end

section
/-! The rows of a session's records: SKIP and HOLD, the appends of a triggered session, the last number, and the fire. -/

namespace Sys2Proof.Machine

/-! ### Continuous sessions -/

/-- Settles O16: each row is its case of `appendSkip`, with the GAP and the record by what one append does. -/
theorem skipRows : Obligations.SkipRows := by
  refine ⟨fun w st b n seq c => ⟨rfl, rfl, rfl, rfl⟩, ?_⟩
  rintro body time s t hs rfl
  have hrunning := appendGap_running_iff hs
  refine ⟨fun hlen hgap => ?_, fun hlen hgap hn => ?_, fun hlen hgap hn => ?_, fun hlen hgap hn => ?_, fun hlen hgap hn => ?_,
    fun hlen => ?_⟩
  · rw [appendSkip_room body time hlen hgap]
    exact ⟨rfl, fun hn => appendRec_eq body time (ne_lastSeq hn)⟩
  · rw [appendSkip_gap body time hlen hgap, if_pos ((hrunning _).2 (ne_lastSeq (by omega))),
      appendRec_appendGap body time _ hn]
  · have hlast : s.ring.nextSeq ≠ lastSeq := ne_lastSeq (by omega)
    rw [appendSkip_gap body time hlen hgap, if_pos ((hrunning _).2 hlast), appendGap_of_ne hlast, hn]
  · rw [appendSkip_lone body time hlen hgap, appendGap_of_ne (ne_lastSeq hn), hlen]
    rfl
  · by_cases hlone : s.ring.recs.length = 511
    · rw [appendSkip_lone body time hlone hgap, if_pos hlone]
      rfl
    · rw [appendSkip_gap body time (by omega) hgap, if_neg (fun h => (hrunning _).1 h hn), if_neg hlone]
      rfl
  · rw [appendSkip_full body time hlen]
    rfl

/-- Settles O17: each row is its case of `appendHold`, with the GAP and the record by what one append does. -/
theorem holdRows : Obligations.HoldRows := by
  intro d s t waits hs happend
  have hrunning := appendGap_running_iff hs
  have row : ∀ {b u}, appendHold d s = (u, b) → waits = b ∧ t = u := fun h =>
    (Prod.mk.inj (happend.symm.trans h)).symm
  refine ⟨fun hlen hgap => ?_, fun hlen hgap hn => row ?_, fun hlen hgap hn => row ?_, fun hlen hgap hn => row ?_,
    fun hlen hgap hn => row ?_, fun hlen => row (appendHold_full d hlen)⟩
  · obtain ⟨hwaits, rfl⟩ := row (appendHold_room d hlen hgap)
    exact ⟨hwaits, rfl, fun hn => appendRec_eq d.body d.time (ne_lastSeq hn)⟩
  · rw [appendHold_gap d (by omega) hgap, if_pos ((hrunning _).2 (ne_lastSeq (by omega))), if_neg (by omega),
      appendRec_appendGap d.body d.time _ hn]
    rfl
  · have hlast : s.ring.nextSeq ≠ lastSeq := ne_lastSeq (by omega)
    rw [appendHold_gap d (by omega) hgap, if_pos ((hrunning _).2 hlast), if_neg (by omega), appendGap_of_ne hlast, hn]
    rfl
  · have hlast : s.ring.nextSeq ≠ lastSeq := ne_lastSeq (by omega)
    rw [appendHold_gap d (by omega) hgap, if_pos ((hrunning _).2 hlast), if_pos hlen, appendGap_of_ne hlast, hlen]
  · rw [appendHold_gap d hlen hgap, if_neg (fun h => (hrunning _).1 h hn)]
    rfl

/-! ### Triggered sessions -/

section
variable {s : State} (body : RecBody) (time : Time)

theorem appendArmed_of_pos (hp : 0 < s.session.p) :
    appendArmed body time s = appendRec (decide (s.session.p ≤ s.ring.recs.length)) body time s :=
  if_neg (by omega)

/-- A record in FIRED, before the state it may bring (R71). -/
def firedPushed (body : RecBody) (time : Time) (s : State) : State :=
  { pushRec false body time s with session := { s.session with post := s.session.post + 1 } }

theorem appendFired_of_ne (hn : s.ring.nextSeq ≠ lastSeq) :
    appendFired body time s = if s.session.q ≤ s.session.post + 1
      then raise .captured { firedPushed body time s with
        session := { s.session with state := .captured, post := s.session.post + 1 } }
      else firedPushed body time s := by
  simp [appendFired, hn, firedPushed]

theorem appendFired_of_eq (hn : s.ring.nextSeq = lastSeq) :
    appendFired body time s = exhaust (firedPushed body time s) := by
  simp [appendFired, hn, firedPushed]

end

/-- Settles O18: in ARMED one append, which discards where the ring holds P; in FIRED the push and its count. -/
theorem triggeredAppends : Obligations.TriggeredAppends := by
  refine ⟨fun body time s => ⟨fun hp => if_pos hp, appendArmed_of_pos body time⟩, fun body time s hn => ?_⟩
  have hlast : s.ring.nextSeq ≠ lastSeq := ne_lastSeq (by omega)
  refine ⟨fun hp hroom => ?_, fun hp hfull => ?_, ?_⟩
  · rw [appendArmed_of_pos body time hp, decide_eq_false (by omega), appendRec_eq body time hlast]
  · rw [appendArmed_of_pos body time hp, decide_eq_true hfull, appendRec_of_ne hlast, pushRec_eq]
    simp
  · rw [appendFired_of_ne body time hlast, firedPushed, pushRec_eq]
    split <;> simp [raise]

/-! ### The last number -/

/-- The append of the last number, whatever it pushed, is a session stop with SEQ_EXHAUSTED pending (R47). -/
theorem append_last {fired discard : Bool} {s : State} (hn : s.ring.nextSeq = lastSeq) (hfired : fired = true → discard = false)
    (body : RecBody) (time : Time) :
    (if fired then appendFired body time s else appendRec discard body time s) = exhaust { pushRec discard body time s with
      session := { s.session with post := if fired then s.session.post + 1 else s.session.post } } := by
  cases fired with
  | true => rw [hfired rfl, if_pos rfl, appendFired_of_eq body time hn]; rfl
  | false =>
    rw [if_neg (by simp), appendRec_of_eq hn, ← pushRec_session discard body time s]
    rfl

/-- The drain at a session stop (R131). -/
theorem drainStop_drain (s : State) :
    (s.drain.state = .running → s.drainTags = [] → (drainStop s).drain = { s.drain with
      state := .ready, inFlight := [], q := s.drain.p, offered := none, stopCause := none, endState := none }) ∧
    (s.drain.state = .running → s.drainTags ≠ [] → (drainStop s).drain = { s.drain with
      state := .stopping, offered := none, stopCause := some .session, endState := some .ready }) ∧
    (s.drain.state ≠ .running → (drainStop s).drain = s.drain) := by
  refine ⟨fun hr ht => ?_, fun hr ht => ?_, fun hr => ?_⟩
  · rw [drainStop, if_pos hr, if_pos ht]; rfl
  · rw [drainStop, if_pos hr, if_neg ht]
  · rw [drainStop, if_neg hr]

theorem drainStop_drain_congr {s t : State} (hdrain : t.drain = s.drain) (htags : t.drainTags = s.drainTags) :
    (drainStop t).drain = (drainStop s).drain := by
  unfold drainStop
  rw [hdrain, htags]
  split
  · split <;> rfl
  · exact hdrain

/-- The stop that exhaustion brings, whole, from the STOPPED session `u` on: the slot waits end as they would with any events
pending (R47, R56). -/
theorem exhaust_eq {s u : State}
    (hu : u = { s with session := { s.session with state := .stopped, stopReason := some .exhausted }, events := u.events }) :
    exhaust s = { releaseSlots false s.ring.slotList u with
      seqr := { s.seqr with state := .idle, stage := 0, count := 0, elapsed := 0 }
      events := { s.events with pending := s.events.pending ||| Event.seqExhausted.set }
      drain := (drainStop u).drain } := by
  have hdrain : (drainStop u).drain = (drainStop (raise .seqExhausted s)).drain :=
    drainStop_drain_congr (by rw [hu]; rfl) (by rw [hu]; rfl)
  have hevents := fun e => releaseSlots_events false e s.ring.slotList
    { s with session := { s.session with state := .stopped, stopReason := some .exhausted } }
  rw [hdrain, hu, hevents, exhaust, stopSession_eq]
  exact congrArg (fun x : State => { x with
    seqr := { s.seqr with state := .idle, stage := 0, count := 0, elapsed := 0 }
    drain := (drainStop (raise .seqExhausted s)).drain })
    (hevents (raise .seqExhausted s).events)

/-- Settles O19: the append of the last number is a session stop after its push, which `exhaust_eq` gives whole. -/
theorem lastNumberStopsSession : Obligations.LastNumberStopsSession := by
  intro fired discard body time s u v hn hfired hu hv
  have hdrain : (drainStop u).drain = (drainStop s).drain :=
    drainStop_drain_congr (by rw [hu]) (by rw [hu]; rfl)
  have hv : v = { releaseSlots false s.ring.slotList u with
      seqr := { s.seqr with state := .idle, stage := 0, count := 0, elapsed := 0 }
      events := { s.events with pending := s.events.pending |||
        (if discard = false ∧ s.ring.recs.length + 1 = s.ring.threshold then Event.ringThreshold.set else 0) |||
          Event.seqExhausted.set }
      drain := (drainStop s).drain } := by
    rw [hv, append_last (s := s) hn hfired, pushRec_eq, exhaust_eq (u := u) (by rw [hu, List.drop_one, hn]), hdrain]
  have hwork := releaseSlots_holdWork s.ring.slotList u
  obtain ⟨hready, hstopping, hkept⟩ := drainStop_drain s
  rw [hv]
  refine ⟨hwork.ring, hwork.session, rfl, rfl, rfl, rfl, rfl, rfl, hwork.windows.trans ?_, hwork.engaged.trans ?_,
    hwork.host.trans ?_, hwork.time.trans ?_, hwork.port.trans ?_, hready, hstopping, hkept⟩ <;> rw [hu]

/-- Settles O20: a fire is `fireMarked`, and a marker with the last number stops a FIRED session as `exhaust_eq` says. -/
theorem fireTakenWhole : Obligations.FireTakenWhole := by
  refine ⟨fun cause s => ⟨fun hn => (fire_eq cause s).trans (if_neg hn), fun u hn hu => ?_⟩,
    fun f s h => ⟨fun hs => ?_, fun hs => ?_⟩⟩
  · have hfire := (fire_eq cause s).trans (if_pos hn)
    refine ⟨fun hq => ?_, fun hq => ?_⟩
    · rw [hfire, if_pos hq, hu]
      simp only [raise, fireMarked, hn, hq, if_true]
    · have hdrain : (drainStop u).drain = (drainStop s).drain :=
        drainStop_drain_congr (by rw [hu]) (by rw [hu]; rfl)
      have hevents : (releaseSlots false s.ring.slotList u).events =
          { s.events with pending := (fireMarked cause s).events.pending ||| Event.seqExhausted.set } := by
        rw [(releaseSlots_holdWork s.ring.slotList u).events, hu]
        rfl
      have hwhole : fire cause s = { releaseSlots false s.ring.slotList u with
          seqr := { s.seqr with state := .idle, stage := 0, count := 0, elapsed := 0 }
          drain := (drainStop s).drain } := by
        rw [hfire, if_neg hq, exhaust_eq (u := u) (by simp only [hu, fireMarked, hn, hq, if_false]), hdrain]
        exact congrArg (fun e => { releaseSlots false s.ring.slotList u with
          seqr := { s.seqr with state := .idle, stage := 0, count := 0, elapsed := 0 }
          drain := (drainStop s).drain, events := e }) hevents.symm
      obtain ⟨hready, hstopping, hkept⟩ := drainStop_drain s
      rw [hwhole]
      exact ⟨rfl, hready, hstopping, hkept⟩
  · exact congrArg Host.Outcome.next (portFrame_done h (Nat.zero_le _) (by simp [runSeqFire, hs]))
  · exact congrArg Host.Outcome.next (portFrame_refuses h (Nat.zero_le _) (by simp [runSeqFire, hs]))

end Sys2Proof.Machine
end

section
/-! Records that leave the ring: retirement from the front of the in-flight list, the ring-slot arbiter, and RING_RELEASE. -/

namespace Sys2Proof.Machine

/-! ### Retirement -/

/-- The item is complete: every line it writes has been answered OK (R124). -/
def DrainItem.complete (it : DrainItem) : Prop := it.faulted = false ∧ (if it.seq = none then 1 else it.lines) ≤ it.okCount

theorem complete_iff (it : DrainItem) : it.complete ↔ it.writes ≤ it.okCount ∧ it.faulted = false := by
  rw [DrainItem.complete, DrainItem.writes, and_comm]
  cases it.seq <;> rfl

theorem retire_cons {it : DrainItem} (h : it.complete) (rest : List DrainItem) (s : State) :
    retire (it :: rest) s = retire rest { s with
      ring := { s.ring with recs := if it.seq.isSome then s.ring.recs.tail else s.ring.recs }
      drain := { s.drain with
        inFlight := rest, p := (s.drain.p + it.lines) % s.drain.size, u := s.drain.u + it.lines } } := by
  rw [retire, if_pos ((complete_iff it).1 h)]

/-- Retirement stops at a front item that is not complete (R124). -/
theorem retire_stops {l : List DrainItem} (h : ∀ it, l.head? = some it → ¬ it.complete) (s : State) : retire l s = s := by
  cases l with
  | nil => rfl
  | cons it rest => rw [retire, if_neg fun hc => h it rfl ((complete_iff it).2 hc)]

/-- Complete items leave the front in order, their lines into u (R124). -/
theorem retire_append {whole rest : List DrainItem} (hwhole : ∀ it ∈ whole, it.complete)
    (hrest : ∀ it, rest.head? = some it → ¬ it.complete) {s : State} (hflight : s.drain.inFlight = whole ++ rest)
    (hp : s.drain.p < s.drain.size) :
    retire (whole ++ rest) s = { s with
      ring := { s.ring with recs := s.ring.recs.drop (whole.filter fun it => it.seq.isSome).length }
      drain := { s.drain with
        inFlight := rest
        p := (s.drain.p + (whole.map DrainItem.lines).sum) % s.drain.size
        u := s.drain.u + (whole.map DrainItem.lines).sum } } := by
  induction whole generalizing s with
  | nil =>
    have hp : (s.drain.p + 0) % s.drain.size = s.drain.p := Nat.mod_eq_of_lt hp
    rw [List.nil_append] at hflight ⊢
    rw [retire_stops hrest, List.map_nil, List.sum_nil, hp, ← hflight]
    rfl
  | cons it whole ih =>
    have hsize : 0 < s.drain.size := by omega
    rw [List.cons_append, retire_cons (hwhole it List.mem_cons_self),
      ih (fun x hx => hwhole x (List.mem_cons_of_mem _ hx)) rfl (Nat.mod_lt _ hsize)]
    cases hseq : it.seq <;>
      simp [hseq, Nat.mod_add_mod, Nat.add_assoc]

/-- Settles O28: the watermark test is `retireAll`'s own, and the items leave as `retire_stops` and `retire_append` say. -/
theorem retirementFromFront : Obligations.RetirementFromFront := by
  have incomplete : ∀ it : DrainItem,
      it.faulted = true ∨ it.okCount < (if it.seq = none then 1 else it.lines) → ¬ it.complete := by
    rintro it (h | h) ⟨hfaulted, hok⟩
    · simp [h] at hfaulted
    · omega
  refine ⟨?_, fun s hfront => retire_stops (fun it hit => incomplete it (hfront it hit)) s,
    fun whole rest s hwhole hrest => retire_append hwhole fun it hit => incomplete it (hrest it hit)⟩
  rintro s t rfl
  refine ⟨fun ⟨hu, hw⟩ => ?_, fun h => ?_⟩
  · have hraise : (decide (s.drain.u < (retire s.drain.inFlight s).drain.u) &&
        decide ((retire s.drain.inFlight s).drain.watermark ≤ (retire s.drain.inFlight s).drain.u)) = true := by
      simp [hu, hw]
    rw [retireAll, raiseIf, if_pos hraise]
    rfl
  · have hquiet : ¬ (decide (s.drain.u < (retire s.drain.inFlight s).drain.u) &&
        decide ((retire s.drain.inFlight s).drain.watermark ≤ (retire s.drain.inFlight s).drain.u)) = true := by
      simp only [Bool.and_eq_true, decide_eq_true_eq]
      omega
    rw [retireAll, raiseIf, if_neg hquiet]

/-! ### The ring-slot arbiter -/

theorem serveList_idle {s : State} (h : s.session.state ≠ .running ∨ 512 ≤ s.ring.recs.length) (l : List Nat) :
    serveList l s = s := by
  cases l with
  | nil => rfl
  | cons i rest =>
    have hidle : ¬ (s.session.state = .running ∧ s.ring.free ≠ 0) := by
      rintro ⟨hs, hfree⟩
      simp only [Ring.free] at hfree
      exact h.elim (fun hn => hn hs) (by omega)
    rw [serveList, if_neg hidle]

/-- A member that was served leaves the rest of the list to be served (R54). -/
theorem serveList_release {s : State} {i : Nat} {line : Addr} {owner : HoldOwner} {parked : List Parked} {rest : List Nat}
    (he : s.entry i = .owned line owner parked) (hlist : s.ring.slotList = rest) :
    serveList rest (release i s) = serveSlots (walk i parked s) := by
  rw [release_owned he, serveSlots, (walk_holdWork i (entry_lt he) parked s).ring, hlist]

section
variable {s : State} {i : Nat} {rest : List Nat} {line : Addr} {w : HeldWrite} {old : Option (List Byte)} {d : Draft}
  {parked : List Parked}

theorem serveSlots_room (hs : s.session.state = .running) (hlist : s.ring.slotList = i :: rest)
    (he : s.entry i = .owned line (.slotWait w old d) parked) (hroom : s.ring.recs.length < 512) (hgap : s.ring.gap = 0) :
    serveSlots s = serveList rest (serveSlot i w d rest s) := by
  have hfree : s.ring.free ≠ 0 := by simp only [Ring.free]; omega
  rw [serveSlots, hlist, serveList, if_pos ⟨hs, hfree⟩, he]
  dsimp only
  rw [if_pos hgap]

theorem serveSlots_gap (hs : s.session.state = .running) (hlist : s.ring.slotList = i :: rest)
    (he : s.entry i = .owned line (.slotWait w old d) parked) (hroom : s.ring.recs.length < 512) (hgap : 0 < s.ring.gap) :
    serveSlots s = if s.ring.nextSeq ≠ lastSeq ∧ s.ring.recs.length ≠ 511
      then serveList rest (serveSlot i w d rest (appendGap s.ring.gap s)) else appendGap s.ring.gap s := by
  have hfree : s.ring.free ≠ 0 := by simp only [Ring.free]; omega
  have hone : s.ring.free ≠ 1 ↔ s.ring.recs.length ≠ 511 := by simp only [Ring.free]; omega
  rw [serveSlots, hlist, serveList, if_pos ⟨hs, hfree⟩, he]
  dsimp only
  rw [if_neg (by omega)]
  exact if_congr (and_congr (appendGap_running_iff hs _) hone) rfl rfl

/-- With numbers left a GAP leaves the ring-slot arbiter's list, and the list does not change the GAP (R51, R54). -/
theorem appendGap_slotList (hn : s.ring.nextSeq ≠ lastSeq) (n : Nat) (l : List Nat) :
    { appendGap n s with ring := { (appendGap n s).ring with slotList := l } } =
      appendGap n { s with ring := { s.ring with slotList := l } } := by
  rw [appendGap_of_ne hn, appendGap_of_ne (s := { s with ring := { s.ring with slotList := l } }) hn]

/-- A member's record that takes the last number ends the session, and with it the serving (R47, R54). -/
theorem serveList_serveSlot_last (hn : s.ring.nextSeq = lastSeq) :
    serveList rest (serveSlot i w d rest s) = serveSlot i w d rest s := by
  refine serveList_idle (.inl ?_) rest
  have hstop := appendRec_of_eq (s := { s with ring := { s.ring with slotList := rest } }) hn false d.body d.time
  rw [serveSlot, (release_holdWork i _).session, enqueue_session, hstop, stopSession_session]
  simp

end

/-! ### RING_RELEASE -/

section
variable {f : Frame} {s : State}

theorem find_isNone_iff {r : Ring} {n : Nat} : (r.find n).isNone = true ↔ ∀ x ∈ r.recs, x.seq ≠ n := by
  simp [Ring.find]

/-- A record through the seq is PENDING (R62). -/
theorem pendingThrough_iff (hnum : s.ring.numbered) (n : Nat) :
    (s.ring.recs.takeWhile fun r => decide (r.seq ≤ n)).any Rec.isPending = true ↔
      ∃ r ∈ s.ring.recs, r.seq ≤ n ∧ r.isPending = true := by
  rw [takeWhile_seq n (numbered_pairwise hnum)]
  simp

theorem runRingRelease_notFound {args : List Byte} (hnone : ∀ r ∈ s.ring.recs, r.seq ≠ argField args 0 4) :
    runRingRelease args s = refuses .notFound s := by
  rw [runRingRelease, if_pos (find_isNone_iff.2 hnone)]

theorem runRingRelease_busy {args : List Byte} (hfind : ∃ r ∈ s.ring.recs, r.seq = argField args 0 4)
    (hnum : s.ring.numbered) (hbusy : (∃ r ∈ s.ring.recs, r.seq ≤ argField args 0 4 ∧ r.isPending = true) ∨
      s.rollback.state ≠ .idle ∨ s.drain.state = .running ∨ s.drain.state = .stopping ∨ s.drain.state = .faulting) :
    runRingRelease args s = refuses .busy s := by
  have hsome : ¬ (s.ring.find (argField args 0 4)).isNone = true := by
    rw [find_isNone_iff]
    push Not
    exact hfind
  rw [runRingRelease, if_neg hsome, if_pos (hbusy.imp_left (pendingThrough_iff hnum _).2)]

theorem runRingRelease_done {args : List Byte} (hfind : ∃ r ∈ s.ring.recs, r.seq = argField args 0 4)
    (hnum : s.ring.numbered) (hout : ∀ r ∈ s.ring.recs, r.seq ≤ argField args 0 4 → r.isPending = false)
    (hrb : s.rollback.state = .idle) (hdrain : s.drain.state = .off ∨ s.drain.state = .ready ∨ s.drain.state = .faulted) :
    runRingRelease args s = done (settle (serveSlots
      { s with ring := { s.ring with recs := s.ring.recs.filter fun r => decide (argField args 0 4 < r.seq) } })) := by
  have hsome : ¬ (s.ring.find (argField args 0 4)).isNone = true := by
    rw [find_isNone_iff]
    push Not
    exact hfind
  have hfree : ¬ ((s.ring.recs.takeWhile fun r => decide (r.seq ≤ argField args 0 4)).any Rec.isPending = true ∨
      s.rollback.state ≠ .idle ∨ s.drain.state = .running ∨ s.drain.state = .stopping ∨ s.drain.state = .faulting) := by
    rw [pendingThrough_iff hnum]
    rintro (⟨r, hr, hle, hpend⟩ | h | h)
    · simp [hout r hr hle] at hpend
    · exact h hrb
    · rcases hdrain with hd | hd | hd <;> simp [hd] at h
  rw [runRingRelease, if_neg hsome, if_neg hfree, releaseThrough, dropWhile_seq _ (numbered_pairwise hnum)]

end

/-- Settles O42: the checks are `runRingRelease`'s, and each case of the serving is one record, or a GAP and a record, and then
the walk of the entry. -/
theorem ringRelease : Obligations.RingRelease := by
  refine ⟨?_, ?_, ?_, ?_⟩
  · rintro f n s h hf rfl
    refine ⟨fun hnone => ?_, fun hfind hnum => ⟨fun hbusy => ?_, fun hout hrb hdrain => ?_⟩⟩
    · exact congrArg _ (portFrame_refuses h hf (runRingRelease_notFound hnone))
    · exact congrArg _ (portFrame_refuses h hf (runRingRelease_busy hfind hnum hbusy))
    · exact congrArg _ (portFrame_done h hf (runRingRelease_done hfind hnum hout hrb hdrain))
  · intro r
    cases hb : r.body with
    | write w st b => cases st <;> simp [Rec.isPending, hb]
    | refused | gap | trigger => simp [Rec.isPending, hb]
  · rintro s (h | h)
    · rw [serveSlots, h, serveList]
    · exact serveList_idle h _
  · rintro i rest line w old d parked s m hs hlist he rfl
    have hroomed := serveSlots_room hs hlist he
    have hgapped := serveSlots_gap hs hlist he
    refine ⟨fun hlen hgap hn => ?_, fun hlen hgap hn => ?_, fun hlen hgap hn => ?_, fun hlen hgap hn t ht => ?_,
      fun hlen hgap hn t ht => ?_, fun hlen hgap hn => ?_⟩
    · rw [hroomed hlen hgap, serveSlot,
        appendRec_eq (s := { s with ring := { s.ring with slotList := rest } }) _ _ (ne_lastSeq hn)]
      exact serveList_release he rfl
    · have hlast : s.ring.nextSeq ≠ lastSeq := ne_lastSeq (by omega)
      rw [hgapped (by omega) hgap, if_pos ⟨hlast, by omega⟩, serveSlot, appendGap_slotList hlast,
        appendRec_appendGap (s := { s with ring := { s.ring with slotList := rest } }) _ _ _ hn]
      exact serveList_release he rfl
    · have hlast : s.ring.nextSeq ≠ lastSeq := ne_lastSeq (by omega)
      rw [hgapped (by omega) hgap, if_neg (fun hgo => hgo.2 hlen), appendGap_of_ne hlast, hlen]
    · rw [hroomed hlen hgap, serveList_serveSlot_last hn, ht]
      rfl
    · have hlast : s.ring.nextSeq ≠ lastSeq := ne_lastSeq (by omega)
      rw [hgapped (by omega) hgap, if_pos ⟨hlast, by omega⟩, appendGap_of_ne hlast, serveList_serveSlot_last hn, ht, hn]
      rfl
    · rw [hgapped hlen hgap, if_neg (fun hgo => hgo.1 hn)]
      rfl

end Sys2Proof.Machine
end

section
/-! The commands of the port that read state, stop the session or clear it. -/

namespace Sys2Proof.Machine

/-! ### Commands without an argument that change nothing -/

/-- A frame without argument bytes of its command that only reads answers what it reads (R165). -/
theorem reads_done {code : Byte} {result : State → List Byte} {f : Frame} {s : State} (h : s.resetHeld = false) :
    portFrame code 0 (fun _ t => shows (result t) t) f s = answered .ok (result (framed f s)) (framed f s) :=
  portFrame_shows h (Nat.zero_le _) rfl

/-- Settles O32: each command shows its result layout on the state of the ended frame. -/
theorem stateReads : Obligations.StateReads := by
  refine ⟨⟨rfl, rfl, rfl, rfl, rfl, rfl⟩, fun f s h => ⟨?_, ?_, ?_, ?_, ?_, ?_, ?_, ?_⟩⟩
  · exact congrArg _ (portFrame_done h (Nat.zero_le _) rfl)
  · exact congrArg _ (reads_done h (result := fun _ => identBytes))
  · refine (congrArg Host.Outcome.next (reads_done h (result := State.statusBytes))).trans ?_
    cases he : s.engaged <;> simp [State.statusBytes, State.holdInUse, yesNo, he]
  · exact congrArg _ (reads_done h (result := fun t => t.ring.statusBytes))
  · exact congrArg _ (reads_done h (result := fun t => t.drain.statusBytes))
  · exact congrArg _ (reads_done h (result := fun t => t.rollback.statusBytes))
  · exact congrArg _ (reads_done h (result := fun t => beBytes 6 t.time.counter.toNat))
  · exact congrArg _ (reads_done h (result := fun t =>
      beBytes 2 t.events.pending.toNat ++ beBytes 2 t.events.enabled.toNat))

/-! ### SESSION_STOP -/

/-- With no credit free, the end of an event grants nothing (R145). -/
theorem settle_mem_of_full {s : State} (h : s.mem.credit ≤ s.mem.outstanding.length) : (settle s).mem = s.mem := by
  have hnone : (offerNext s).mem.credit - (offerNext s).mem.outstanding.length = 0 := by
    rw [offerNext_mem]
    omega
  rw [settle, hnone]
  exact offerNext_mem s

theorem exec_sessionStop {f : Frame} {s : State} (h : s.resetHeld = false) :
    exec (.sessionStop f) s = .next (if s.recording then answered .ok [] (settle (stopSession .command (framed f s)))
      else answered .badState [] (framed f s)) := by
  split
  next hrec => exact congrArg _ (portFrame_done h (Nat.zero_le _) (by simp [runSessionStop, hrec]))
  next hrec => exact congrArg _ (portFrame_refuses h (Nat.zero_le _) (by simp [runSessionStop, hrec]))

/-- Settles O41: the stop is `stopSession_eq`'s, and `settle` leaves all but the memory link and the drain. -/
theorem sessionStop : Obligations.SessionStop := by
  intro f s h
  refine ⟨fun hs => ?_, fun hs u hu => ?_⟩
  · have hrec : ¬ s.recording = true := by
      rw [recording_iff]
      rcases hs with hs | hs | hs <;> simp [hs]
    rw [exec_sessionStop h, if_neg hrec]
  have hwork := releaseSlots_holdWork s.ring.slotList
    { framed f s with session := { s.session with state := .stopped, stopReason := some .command } }
  have hx : stopSession .command (framed f s) = { u with
      seqr := { s.seqr with state := .idle, stage := 0, count := 0, elapsed := 0 }, drain := (drainStop s).drain } := by
    rw [stopSession_eq, drainStop_drain_congr (t := framed f s) (s := s) rfl rfl, hu]
    rfl
  rw [← hu] at hwork
  obtain ⟨hready, hstopping, hkept⟩ := drainStop_drain s
  rw [exec_sessionStop h, if_pos ((recording_iff s).2 hs)]
  generalize stopSession .command (framed f s) = x at hx ⊢
  have hgrant := settle_grantWork x
  have hfull := settle_mem_of_full (s := x)
  refine ⟨x, _, rfl, rfl, ?_⟩
  generalize settle x = t at hgrant hfull ⊢
  subst hx
  refine ⟨rfl, hready, hstopping, hkept, ?_, hgrant.session.trans hwork.session, hgrant.seqr, hgrant.ring.trans hwork.ring,
    hgrant.hold, hgrant.ingress, hgrant.rollback, rfl, fun hc => hfull ?_, hgrant.windows.trans hwork.windows,
    hgrant.engaged.trans hwork.engaged, hgrant.events.trans hwork.events, hgrant.host.trans hwork.host,
    hgrant.time.trans hwork.time, fun hr ht => ?_, fun hr ht => ?_, fun hr ho => ?_⟩
  · rw [answered_port, hgrant.port.trans hwork.port]
    rfl
  · rw [show _ = s.mem.credit from hwork.credit, show _ = s.mem.outstanding from hwork.outstanding]
    exact hc
  · have hd := hready hr ht
    exact (hgrant.idle (by simp [hd]) (by simp [hd])).trans hd
  · have hd := hstopping hr ht
    exact (hgrant.idle (by simp [hd]) (by simp [hd])).trans hd
  · have hd := hkept hr
    exact (hgrant.idle (by simpa [hd] using hr) (by simpa [hd] using ho)).trans hd

/-! ### The early end of a rollback at a clear -/

section
variable {s : State}

theorem endEarly_idle (why : RbPending) (h : s.rollback.state = .idle) : endEarly why s = s := by
  simp only [endEarly, h]

theorem endEarly_claiming (why : RbPending) (h : s.rollback.state = .claiming) :
    endEarly why s = endRollback why.result (withdrawClaim s) := by
  simp only [endEarly, h]

theorem endEarly_checking (why : RbPending) (h : s.rollback.state = .checking) :
    endEarly why s =
      releaseChecking { s with rollback := { s.rollback with state := .aborting, pendingResult := some why } } := by
  simp only [endEarly, h]

theorem endEarly_restoring (why : RbPending) (h : s.rollback.state = .restoring) :
    endEarly why s = { s with rollback := { s.rollback with state := .aborting, pendingResult := some why } } := by
  simp only [endEarly, h]

theorem endEarly_aborting (h : s.rollback.state = .aborting) :
    endEarly .cleared s = { s with rollback := { s.rollback with pendingResult := some .cleared } } := by
  simp only [endEarly, h]

end

/-! ### A release without a claim -/

theorem takeEntry_rollback (i : Nat) (w : HeldWrite) (s : State) : (takeEntry i w s).rollback = s.rollback := by
  unfold takeEntry
  split <;> rfl

/-- A FREE entry that no claim of the engine waits for leaves the engine as it is (R25). -/
theorem offerFree_rollback (i : Nat) {l : List Claimant} (h : ∀ x ∈ l, x.isHead = true) (s : State) :
    (offerFree i l s).rollback = s.rollback := by
  match l with
  | [] => rfl
  | .head :: rest =>
    unfold offerFree
    split
    · exact takeEntry_rollback ..
    · rfl
  | .rollback c :: rest => exact absurd (h (.rollback c) List.mem_cons_self) (by simp [Claimant.isHead])

/-- A parked list without a claim leaves the engine as it is (R34). -/
theorem walk_rollback (i : Nat) : ∀ {l : List Parked} {s : State}, (∀ x ∈ l, x.isClaim = false) →
    (∀ x ∈ s.hold.arbiter, x.isHead = true) → (walk i l s).rollback = s.rollback
  | [], s, _, harb => offerFree_rollback i harb s
  | .host r cands :: rest, s, hl, harb => by
    unfold walk
    split
    · exact walk_rollback i (s := enqueue r.item s) (fun x hx => hl x (List.mem_cons_of_mem _ hx)) harb
    · rfl
  | .claim c :: rest, s, hl, _ => absurd (hl (.claim c) List.mem_cons_self) (by simp [Parked.isClaim])

theorem no_claim_of_claimCount {line : Addr} {owner : HoldOwner} {parked : List Parked}
    (h : (HoldEntry.owned line owner parked).claimCount = 0) : ∀ x ∈ parked, x.isClaim = false := by
  simpa [HoldEntry.claimCount] using h

/-- Where no claim waits the engine's entry is released without a word to the engine (R36). -/
theorem releaseChecking_rollback {s : State} (hparked : ∀ i < 8, (s.entry i).claimCount = 0)
    (harb : ∀ x ∈ s.hold.arbiter, x.isHead = true) : (releaseChecking s).rollback = s.rollback := by
  unfold releaseChecking
  split
  next i _ =>
    unfold release
    split
    · rfl
    next he =>
      have hcount := hparked i (entry_lt he)
      rw [he] at hcount
      exact walk_rollback i (no_claim_of_claimCount hcount) harb
  · rfl

/-! ### The drain at a clear -/

theorem drainClearSession_drain_congr {s t : State} (hdrain : t.drain = s.drain) (htags : t.drainTags = s.drainTags) :
    (drainClearSession t).drain = (drainClearSession s).drain := by
  have hworking : (drainClearWorking .ready t).drain = (drainClearWorking .ready s).drain := by
    unfold drainClearWorking drainClearing
    rw [hdrain, htags]
    split <;> rfl
  unfold drainClearSession
  rw [hdrain]
  cases s.drain.state with
  | off | ready => exact hdrain
  | faulted => rfl
  | running | faulting => exact hworking
  | stopping =>
    dsimp only
    split
    · rw [drainClearing_drain, drainClearing_drain, hdrain]
    · exact hworking

theorem drainClearAll_drain_congr {s t : State} (hdrain : t.drain = s.drain) (htags : t.drainTags = s.drainTags) :
    (drainClearAll t).drain = (drainClearAll s).drain := by
  unfold drainClearAll drainClearing
  rw [hdrain, htags]
  split <;> rfl

/-- The drain is at work for the session, and no clear has reached it yet (R132). -/
def Drain.working (d : Drain) : Prop :=
  d.state = .running ∨ d.state = .faulting ∨ d.state = .stopping ∧ d.stopCause ≠ some .clear

theorem drainClearSession_working {s : State} (h : s.drain.working) :
    drainClearSession s = drainClearWorking .ready s := by
  unfold drainClearSession
  rcases h with h | h | ⟨h, hc⟩ <;> simp_all

/-- The table of R132. -/
theorem drainClearSession_drain (s : State) :
    (s.drain.state = .off ∨ s.drain.state = .ready → (drainClearSession s).drain = s.drain) ∧
    (s.drain.state = .faulted ∨ s.drain.working ∧ s.drainTags = [] →
      (drainClearSession s).drain = { s.drain.emptied with state := .ready }) ∧
    (s.drain.working ∧ s.drainTags ≠ [] → (drainClearSession s).drain =
      { s.drain.emptied with state := .stopping, stopCause := some .clear, endState := some .ready }) ∧
    (s.drain.state = .stopping ∧ s.drain.stopCause = some .clear → (drainClearSession s).drain =
      { s.drain.emptied with
        state := .stopping, stopCause := some .clear, endState := some (s.drain.endState.getD .ready) }) := by
  refine ⟨?_, ?_, ?_, ?_⟩
  · rintro (h | h) <;> simp [drainClearSession, h]
  · rintro (h | ⟨h, ht⟩)
    · simp [drainClearSession, h]
    · rw [drainClearSession_working h, drainClearWorking, if_pos ht]
  · rintro ⟨h, ht⟩
    rw [drainClearSession_working h, drainClearWorking, if_neg ht, drainClearing_drain]
  · rintro ⟨h, hc⟩
    simp [drainClearSession, h, hc]

/-! ### A clear, phase by phase -/

/-- `x` comes from `v` by the early end of its rollback and a change of the drain, and `t` from `x` by grants; `u` is the state
before the blocks of the session were cleared, and `w` the one in which the entry in CHECKING has been released. -/
structure ClearEnds (u v w x t : State) : Prop where
  blocks : v = { u with session := v.session, ring := v.ring, seqr := v.seqr }
  checked : w = releaseChecking { v with rollback := { v.rollback with state := .aborting, pendingResult := some .cleared } }
  ended : x = { endEarly .cleared v with drain := x.drain }
  granted : GrantWork x t

namespace ClearEnds

variable {u v w x t : State} (k : ClearEnds u v w x t)
include k

theorem rollback_u : v.rollback = u.rollback := by rw [k.blocks]
theorem hold_u : v.hold = u.hold := by rw [k.blocks]
theorem ingress_u : v.ingress = u.ingress := by rw [k.blocks]
theorem mem_u : v.mem = u.mem := by rw [k.blocks]
theorem events_u : v.events = u.events := by rw [k.blocks]

/-- What the grants leave of a phase's end `y`. -/
theorem after {y : State} (hx : x = { y with drain := x.drain }) :
    t.rollback = y.rollback ∧ t.hold = y.hold ∧ t.ingress = y.ingress ∧ x.mem = y.mem ∧ t.events = y.events :=
  ⟨k.granted.rollback.trans (by rw [hx]), k.granted.hold.trans (by rw [hx]), k.granted.ingress.trans (by rw [hx]),
    by rw [hx], k.granted.events.trans (by rw [hx])⟩

theorem idle (h : u.rollback.state = .idle) : x = { v with drain := x.drain } ∧
    t.rollback = u.rollback ∧ t.hold = u.hold ∧ t.ingress = u.ingress ∧ x.mem = u.mem ∧ t.events = u.events := by
  have hx : x = { v with drain := x.drain } := k.ended.trans (by rw [endEarly_idle _ (by rwa [k.rollback_u])])
  rw [← k.rollback_u, ← k.hold_u, ← k.ingress_u, ← k.mem_u, ← k.events_u]
  exact ⟨hx, k.after hx⟩

theorem claiming (h : u.rollback.state = .claiming) :
    x = { withdrawClaim v with
      rollback := { u.rollback with state := .idle, result := .cleared, pendingResult := none }
      events := { u.events with pending := u.events.pending ||| Event.rollbackDone.set }
      drain := x.drain } ∧
    t.rollback = { u.rollback with state := .idle, result := .cleared, pendingResult := none } ∧
    t.hold = (withdrawClaim u).hold ∧ t.ingress = u.ingress ∧ x.mem = u.mem ∧
    t.events = { u.events with pending := u.events.pending ||| Event.rollbackDone.set } := by
  have hx : x = { endRollback .cleared (withdrawClaim v) with drain := x.drain } :=
    k.ended.trans (by rw [endEarly_claiming _ (by rwa [k.rollback_u])]; rfl)
  have hhold : (withdrawClaim u).hold = (withdrawClaim v).hold := by rw [withdrawClaim, withdrawClaim, k.hold_u]
  rw [hhold, ← k.rollback_u, ← k.ingress_u, ← k.mem_u, ← k.events_u]
  exact ⟨hx, k.after hx⟩

theorem checking (h : u.rollback.state = .checking) : x = { w with drain := x.drain } ∧
    t.rollback = w.rollback ∧ t.hold = w.hold ∧ t.ingress = w.ingress ∧ x.mem = w.mem ∧ t.events = u.events ∧
    ((∀ i < 8, (u.entry i).claimCount = 0) → (∀ x ∈ u.hold.arbiter, x.isHead = true) →
      t.rollback = { u.rollback with state := .aborting, pendingResult := some .cleared }) := by
  have hx : x = { w with drain := x.drain } :=
    k.ended.trans (by rw [endEarly_checking _ (by rwa [k.rollback_u]), k.checked])
  obtain ⟨hrb, hhold, hin, hmem, hev⟩ := k.after hx
  have hwork := releaseChecking_holdWork
    { v with rollback := { v.rollback with state := .aborting, pendingResult := some .cleared } }
  rw [← k.checked] at hwork
  refine ⟨hx, hrb, hhold, hin, hmem, (hev.trans hwork.events).trans k.events_u, fun hparked harb => ?_⟩
  rw [hrb, k.checked, releaseChecking_rollback, k.rollback_u]
  · exact fun i hi => (congrArg HoldEntry.claimCount (entry_congr k.hold_u i)).trans (hparked i hi)
  · exact k.hold_u ▸ harb

theorem restoring (h : u.rollback.state = .restoring) :
    x = { v with rollback := { u.rollback with state := .aborting, pendingResult := some .cleared }, drain := x.drain } ∧
    t.rollback = { u.rollback with state := .aborting, pendingResult := some .cleared } ∧
    t.hold = u.hold ∧ t.ingress = u.ingress ∧ x.mem = u.mem ∧ t.events = u.events := by
  have hx : x = { v with
      rollback := { v.rollback with state := .aborting, pendingResult := some .cleared }, drain := x.drain } :=
    k.ended.trans (by rw [endEarly_restoring _ (by rwa [k.rollback_u])])
  rw [← k.rollback_u, ← k.hold_u, ← k.ingress_u, ← k.mem_u, ← k.events_u]
  exact ⟨hx, k.after (y := { v with rollback := { v.rollback with state := .aborting, pendingResult := some .cleared } }) hx⟩

theorem aborting (h : u.rollback.state = .aborting) :
    x = { v with rollback := { u.rollback with pendingResult := some .cleared }, drain := x.drain } ∧
    t.rollback = { u.rollback with pendingResult := some .cleared } ∧
    t.hold = u.hold ∧ t.ingress = u.ingress ∧ x.mem = u.mem ∧ t.events = u.events := by
  have hx : x = { v with rollback := { v.rollback with pendingResult := some .cleared }, drain := x.drain } :=
    k.ended.trans (by rw [endEarly_aborting (by rwa [k.rollback_u])])
  rw [← k.rollback_u, ← k.hold_u, ← k.ingress_u, ← k.mem_u, ← k.events_u]
  exact ⟨hx, k.after (y := { v with rollback := { v.rollback with pendingResult := some .cleared } }) hx⟩

/-- What a clear and its grants leave, whatever the phase of the rollback. -/
theorem kept : t.ring = v.ring ∧ t.session = v.session ∧ t.seqr = v.seqr ∧ t.windows = u.windows ∧ t.engaged = u.engaged ∧
    t.time = u.time ∧ t.host = u.host ∧ t.port = u.port ∧ t.mem.credit = u.mem.credit ∧
    t.events.enabled = u.events.enabled ∧ t.events.fault = u.events.fault := by
  obtain ⟨y, hy, hended, hfault, henabled⟩ := endEarly_does .cleared v
  have hx : x = { y with rollback := x.rollback, events := (endEarly .cleared v).events, drain := x.drain } := by
    have hrb : x.rollback = (endEarly .cleared v).rollback := by rw [k.ended]
    rw [hrb]
    exact k.ended.trans (by rw [hended])
  have hg := k.granted
  have hv := k.blocks
  have hev : t.events = (endEarly .cleared v).events := hg.events.trans (by rw [hx])
  refine ⟨hg.ring.trans ?_, hg.session.trans ?_, hg.seqr.trans ?_, hg.windows.trans ?_, hg.engaged.trans ?_, hg.time.trans ?_,
    hg.host.trans ?_, hg.port.trans ?_, hg.credit.trans ?_, ?_, ?_⟩
  · rw [hx]; exact hy.ring
  · rw [hx]; exact hy.session
  · rw [hx]; exact hy.seqr
  · rw [hx]; exact hy.windows.trans (by rw [hv])
  · rw [hx]; exact hy.engaged.trans (by rw [hv])
  · rw [hx]; exact hy.time.trans (by rw [hv])
  · rw [hx]; exact hy.host.trans (by rw [hv])
  · rw [hx]; exact hy.port.trans (by rw [hv])
  · rw [hx]; exact hy.credit.trans (by rw [hv])
  · rw [hev, henabled, k.events_u]
  · rw [hev, hfault, k.events_u]

/-- The path issue queue has only grown (R150). -/
theorem queued : ∃ l, x.mem = { u.mem with queue := u.mem.queue ++ l } := by
  obtain ⟨y, hy, hended, -⟩ := endEarly_does .cleared v
  obtain ⟨l, hl, -⟩ := hy.queued
  have hx : x.mem = y.mem := by rw [k.ended, hended]
  refine ⟨l, ?_⟩
  rw [hx, hy.same, hl, k.mem_u]

/-- A drain that is not RUNNING and offers no line keeps what the clear has left of it (R132, R133). -/
theorem settled {d : Drain} (hx : x.drain = d) (hd : d.state ≠ .running) (ho : d.offered = none) : t.drain = d :=
  (k.granted.idle (hx ▸ hd) (hx ▸ ho)).trans hx

end ClearEnds

/-! ### CLEAR SESSION and CLEAR ALL -/

/-- The slot waits of a clear leave the memory link as it was, with items appended to the path issue queue (R56, R150). -/
theorem releaseSlots_queued (l : List Nat) (s : State) :
    ∃ m, (releaseSlots false l s).mem = { s.mem with queue := s.mem.queue ++ m } := by
  have hwork := releaseSlots_holdWork l s
  obtain ⟨m, hm, -⟩ := hwork.queued
  exact ⟨m, by rw [hwork.same, hm]⟩

/-- The work of a clear is the early end of the rollback on the cleared session `v`, and the drain's share (R63, R79). -/
theorem clearSessionWork_eq (dc : State → State) {s u v : State} (hu : u = releaseSlots false s.ring.slotList s)
    (hv : v = { u with
      session := Session.reset
      ring := { s.ring with recs := [], outcomeMap := [], gap := 0, nextSeq := 0, slotList := [] }
      seqr := { s.seqr with state := .idle, stage := 0, count := 0, elapsed := 0 } }) :
    clearSessionWork dc s = dc (endEarly .cleared v) := by
  have hwork := releaseSlots_holdWork s.ring.slotList s
  rw [← hu] at hwork
  rw [clearSessionWork, ← hu, hv]
  simp only [seqIdle, Ring.cleared, hwork.ring, hwork.seqr]

/-- Settles O35: the clear's work is `clearSessionWork_eq`'s; each phase of the rollback is its case of `ClearEnds`, and the
drain's share is the table of `drainClearSession_drain`. -/
theorem clearSession : Obligations.ClearSession := by
  intro f s u v w h hb hu hv hw
  have hwork := releaseSlots_holdWork s.ring.slotList (framed f s)
  have hqueued := releaseSlots_queued s.ring.slotList (framed f s)
  rw [← hu] at hwork hqueued
  have hended := endEarly_rbWork .cleared v
  have hdrain : (drainClearSession (endEarly .cleared v)).drain = (drainClearSession s).drain :=
    drainClearSession_drain_congr (hended.drain.trans (by rw [hv]; exact hwork.drain))
      (hended.drainTags.trans (by rw [hv]; exact hwork.drainTags))
  have hexec : exec (.clearSession f) s =
      .next (answered .ok [] (settle (drainClearSession (endEarly .cleared v)))) := by
    rw [← clearSessionWork_eq drainClearSession (s := framed f s) hu hv]
    exact congrArg _ (clearFrame_done h hb (scope := .session) rfl)
  have k : ClearEnds u v w (drainClearSession (endEarly .cleared v)) (settle (drainClearSession (endEarly .cleared v))) :=
    ⟨by rw [hv], hw, drainClearSession_same _, settle_grantWork _⟩
  obtain ⟨hoff, hready, hstopping, hagain⟩ := drainClearSession_drain s
  rw [← hdrain] at hoff hready hstopping hagain
  have hfull := settle_mem_of_full (s := drainClearSession (endEarly .cleared v))
  generalize drainClearSession (endEarly .cleared v) = x at hexec k hfull hoff hready hstopping hagain
  refine ⟨x, _, hexec, rfl, ?_⟩
  generalize settle x = t at k hfull ⊢
  obtain ⟨hring, hsession, hseqr, hwindows, hengaged, htime, hhost, hport, hcredit, henabled, hfault⟩ := k.kept
  obtain ⟨l, hl⟩ := hqueued
  obtain ⟨l', hl'⟩ := k.queued
  refine ⟨fun hr => (k.idle hr).1, fun hr => (k.claiming hr).1, fun hr => (k.checking hr).1, fun hr => (k.restoring hr).1,
    fun hr => (k.aborting hr).1, hoff, hready, hstopping, hagain, ⟨l ++ l', by rw [hl', hl, List.append_assoc]; rfl⟩,
    fun hc => hfull (by rw [hl', hl]; exact hc), by rw [answered_port, hport, hwork.port]; rfl, hsession.trans (by rw [hv]; rfl),
    hring.trans (by rw [hv]), hseqr.trans (by rw [hv]), hwindows.trans hwork.windows, hengaged.trans hwork.engaged,
    htime.trans hwork.time, hhost.trans hwork.host, hcredit.trans hwork.credit, henabled.trans (by rw [hwork.events]; rfl),
    hfault.trans (by rw [hwork.events]; rfl), fun hs => ?_, fun hr => ?_, fun hr => ?_, fun hr => ?_, fun hr => ?_,
    fun hr => ?_, fun hd ho => ?_, fun hd => ?_, fun hd => ?_, fun e hd => ?_⟩
  · rw [hu, hs]
    exact ⟨rfl, rfl, rfl, rfl⟩
  · obtain ⟨-, hrb, hhold, hin, hmem, hev⟩ := k.idle hr
    exact ⟨hrb, hhold, hin, hmem, hev.trans hwork.events⟩
  · obtain ⟨-, hrb, hhold, hin, hmem, hev⟩ := k.claiming hr
    exact ⟨hrb, hhold, hin, hmem, by rw [answered_events, hev, hwork.events]; rfl⟩
  · obtain ⟨-, hrb, hhold, hin, hmem, hev, hclaimless⟩ := k.checking hr
    exact ⟨hrb, hhold, hin, hmem, hev.trans hwork.events, hclaimless⟩
  · obtain ⟨-, hrb, hhold, hin, hmem, hev⟩ := k.restoring hr
    exact ⟨hrb, hhold, hin, hmem, hev.trans hwork.events⟩
  · obtain ⟨-, hrb, hhold, hin, hmem, hev⟩ := k.aborting hr
    exact ⟨hrb, hhold, hin, hmem, hev.trans hwork.events⟩
  · exact k.settled (hoff hd) (by rcases hd with hd | hd <;> simp [hd]) ho
  · exact k.settled (hready (hd.imp_right fun ⟨hs, ht⟩ => ⟨hs.imp_right .inl, ht⟩)) (by simp) rfl
  · obtain ⟨hs, ht⟩ := hd
    exact k.settled (hstopping ⟨hs.imp_right (Or.imp_right fun ⟨hs, hc⟩ => ⟨hs, by simp [hc]⟩), ht⟩) (by simp) rfl
  · obtain ⟨hs, hc, he⟩ := hd
    have hdrain := hagain ⟨hs, hc⟩
    rw [he] at hdrain
    exact k.settled hdrain (by simp) rfl

theorem drainClearAll_drain (s : State) :
    (s.drainTags = [] → (drainClearAll s).drain = Drain.reset) ∧
    (s.drainTags ≠ [] → (drainClearAll s).drain =
      { s.drain.emptied with state := .stopping, stopCause := some .clear, endState := some .off }) :=
  ⟨fun h => by rw [drainClearAll, if_pos h, drainOff_drain], fun h => by rw [drainClearAll, if_neg h, drainClearing_drain]⟩

/-- Settles O36: as CLEAR SESSION, from the state in which the blocks that CLEAR ALL resets have their reset values. -/
theorem clearAll : Obligations.ClearAll := by
  intro f s u v w h hb hu hv hw
  generalize hs0 : { framed f s with
    windows := State.reset.windows, events := State.reset.events, time := State.reset.time, engaged := false
    ring := { s.ring with policy := .skip, threshold := 256 }
    seqr := { s.seqr with stages := State.reset.seqr.stages, length := 1 } } = s0 at hu
  have hslots : s0.ring.slotList = s.ring.slotList := by rw [← hs0]
  rw [← hslots] at hu
  have hwork := releaseSlots_holdWork s0.ring.slotList s0
  have hqueued := releaseSlots_queued s0.ring.slotList s0
  rw [← hu] at hwork hqueued
  have hv' : v = { u with
      session := Session.reset
      ring := { s0.ring with recs := [], outcomeMap := [], gap := 0, nextSeq := 0, slotList := [] }
      seqr := { s0.seqr with state := .idle, stage := 0, count := 0, elapsed := 0 } } := by
    rw [hv, ← hs0]
    rfl
  have hended := endEarly_rbWork .cleared v
  have hdrain : (drainClearAll (endEarly .cleared v)).drain = (drainClearAll s).drain :=
    drainClearAll_drain_congr (hended.drain.trans (by rw [hv]; exact hwork.drain.trans (by rw [← hs0]; rfl)))
      (hended.drainTags.trans (by rw [hv]; exact hwork.drainTags.trans (by rw [← hs0]; rfl)))
  have hexec : exec (.clearAll f) s = .next (answered .ok [] (settle (drainClearAll (endEarly .cleared v)))) := by
    rw [← clearSessionWork_eq drainClearAll (s := s0) hu hv', ← hs0]
    exact congrArg _ (clearFrame_done h hb (scope := .all) rfl)
  have k : ClearEnds u v w (drainClearAll (endEarly .cleared v)) (settle (drainClearAll (endEarly .cleared v))) :=
    ⟨by rw [hv], hw, drainClearAll_same _, settle_grantWork _⟩
  obtain ⟨hoff, hstopping⟩ := drainClearAll_drain s
  rw [← hdrain] at hoff hstopping
  have hfull := settle_mem_of_full (s := drainClearAll (endEarly .cleared v))
  generalize drainClearAll (endEarly .cleared v) = x at hexec k hfull hoff hstopping
  refine ⟨x, _, hexec, rfl, ?_⟩
  generalize settle x = t at k hfull ⊢
  obtain ⟨hring, hsession, hseqr, hwindows, hengaged, htime, hhost, hport, hcredit, henabled, hfault⟩ := k.kept
  obtain ⟨l, hl⟩ := hqueued
  obtain ⟨l', hl'⟩ := k.queued
  subst hs0
  have hnone : ∀ {e : Events}, e = u.events → e.pending = 0 := fun he => by rw [he, hwork.events]; rfl
  have henabled : t.events.enabled = 0 := henabled.trans (by rw [hwork.events]; rfl)
  refine ⟨fun hr => (k.idle hr).1, fun hr => (k.claiming hr).1, fun hr => (k.checking hr).1, fun hr => (k.restoring hr).1,
    fun hr => (k.aborting hr).1, hoff, hstopping, ⟨l ++ l', by rw [hl', hl, List.append_assoc]; rfl⟩,
    fun hc => hfull (by rw [hl', hl]; exact hc), by rw [answered_port, hport, hwork.port]; rfl, hsession.trans (by rw [hv]),
    hring.trans (by rw [hv]), hseqr.trans (by rw [hv]), hwindows.trans hwork.windows, hengaged.trans hwork.engaged,
    htime.trans hwork.time, hhost.trans hwork.host, hcredit.trans hwork.credit, henabled,
    hfault.trans (by rw [hwork.events]; rfl), by simp [State.irqAsserted, henabled], fun hs => ?_, fun hr => ?_,
    fun hr => ?_, fun hr => ?_, fun hr => ?_, fun hr => ?_, fun ht => k.settled (hoff ht) (by decide) rfl,
    fun ht => k.settled (hstopping ht) (by simp) rfl⟩
  · rw [hu, hslots, hs]
    exact ⟨rfl, rfl, rfl, rfl⟩
  · obtain ⟨-, hrb, hhold, hin, hmem, hev⟩ := k.idle hr
    exact ⟨hrb, hhold, hin, hmem, hnone hev⟩
  · obtain ⟨-, hrb, hhold, hin, hmem, hev⟩ := k.claiming hr
    exact ⟨hrb, hhold, hin, hmem, by rw [answered_events, hev, hwork.events]; exact BitVec.zero_or⟩
  · obtain ⟨-, hrb, hhold, hin, hmem, hev, hclaimless⟩ := k.checking hr
    exact ⟨hrb, hhold, hin, hmem, hnone hev, hclaimless⟩
  · obtain ⟨-, hrb, hhold, hin, hmem, hev⟩ := k.restoring hr
    exact ⟨hrb, hhold, hin, hmem, hnone hev⟩
  · obtain ⟨-, hrb, hhold, hin, hmem, hev⟩ := k.aborting hr
    exact ⟨hrb, hhold, hin, hmem, hnone hev⟩

end Sys2Proof.Machine
end

section
/-! SESSION_START: its arguments, its refusals in order, and the accepted command. -/

namespace Sys2Proof.Machine

/-! ### The arguments -/

theorem sessionKindOf_eq_none {n : Nat} : sessionKindOf n = none ↔ 1 < n := by
  match n with
  | 0 | 1 => simp [sessionKindOf]
  | n + 2 => exact ⟨fun _ => by omega, fun _ => rfl⟩

theorem sessionKindOf_triggered {n : Nat} {kind : SessionKind} (h : sessionKindOf n = some kind) :
    kind = .triggered ↔ n = 1 := by
  match n with
  | 0 | 1 => simp [sessionKindOf] at h; simp [← h]
  | n + 2 => simp [sessionKindOf] at h

theorem policyOf_eq_none {n : Nat} : policyOf n = none ↔ 1 < n := by
  match n with
  | 0 | 1 => simp [policyOf]
  | n + 2 => exact ⟨fun _ => by omega, fun _ => rfl⟩

/-- Check 1 of R67 fails. -/
def startArgBad (args : List Byte) : Prop :=
  1 < argField args 0 1 ∨ 1 < argField args 5 1 ∨ 511 < argField args 1 2 ∨ 511 < argField args 3 2 ∨
  argField args 6 2 = 0 ∨ 512 < argField args 6 2 ∨ argField args 0 1 = 1 ∧ 511 < argField args 1 2 + argField args 3 2

theorem startArg_eq_none {args : List Byte} (h : startArgBad args) : startArg args = none := by
  unfold startArgBad at h
  unfold startArg
  split
  next kind policy hkind hpolicy =>
    have hk : ¬ 1 < argField args 0 1 := by simp [← sessionKindOf_eq_none, hkind]
    have hp : ¬ 1 < argField args 5 1 := by simp [← policyOf_eq_none, hpolicy]
    refine if_pos ?_
    rw [sessionKindOf_triggered hkind]
    omega
  · rfl

theorem startArg_eq_some {args : List Byte} {kind : SessionKind} {policy : Policy} (h : ¬ startArgBad args)
    (hk : sessionKindOf (argField args 0 1) = some kind) (hp : policyOf (argField args 5 1) = some policy) :
    startArg args = some
      { kind := kind, p := argField args 1 2, q := argField args 3 2, policy := policy, threshold := argField args 6 2 } := by
  unfold startArgBad at h
  unfold startArg
  rw [hk, hp]
  refine if_neg ?_
  rw [sessionKindOf_triggered hk]
  omega

/-- Arguments that pass check 1 name a kind and a policy. -/
theorem codes_of_not_bad {args : List Byte} (h : ¬ startArgBad args) :
    ∃ kind policy, sessionKindOf (argField args 0 1) = some kind ∧ policyOf (argField args 5 1) = some policy := by
  obtain ⟨kind, hk⟩ := Option.ne_none_iff_exists'.1 fun hnone => h (.inl (sessionKindOf_eq_none.1 hnone))
  obtain ⟨policy, hp⟩ := Option.ne_none_iff_exists'.1 fun hnone => h (.inr (.inl (policyOf_eq_none.1 hnone)))
  exact ⟨kind, policy, hk, hp⟩

/-! ### The command -/

section
variable {args : List Byte} {a : StartArgs} {s : State}

theorem runSessionStart_badArg (h : startArgBad args) : runSessionStart args s = refuses .badArg s := by
  simp [runSessionStart, startArg_eq_none h]

theorem runSessionStart_badState (ha : startArg args = some a) (hs : s.session.state ≠ .idle) :
    runSessionStart args s = refuses .badState s := by
  simp [runSessionStart, ha, hs]

theorem runSessionStart_busy (ha : startArg args = some a) (hs : s.session.state = .idle)
    (hbusy : s.rollback.state = .aborting ∨ s.drain.state = .stopping ∨ s.drain.state = .faulting) :
    runSessionStart args s = refuses .busy s := by
  simp [runSessionStart, ha, hs, hbusy]

theorem runSessionStart_done (ha : startArg args = some a) (hs : s.session.state = .idle)
    (hfree : ¬ (s.rollback.state = .aborting ∨ s.drain.state = .stopping ∨ s.drain.state = .faulting)) :
    runSessionStart args s = done (startSession a s) := by
  simp only [runSessionStart, ha]
  rw [if_neg (not_not.2 hs), if_neg hfree]

end

/-- Settles O40: the checks are `runSessionStart`'s in their order, and an accepted start is `startSession` of its kind. -/
theorem sessionStart : Obligations.SessionStart := by
  rintro f kind p q policy threshold s h hf rfl rfl rfl rfl rfl
  refine ⟨fun hbad => congrArg _ (portFrame_refuses h hf (runSessionStart_badArg hbad)), ?_⟩
  intro hkind hpolicy hp hq hpos hthreshold hsum
  have hgood : ¬ startArgBad f.args := by
    unfold startArgBad
    omega
  obtain ⟨k, m, hk, hm⟩ := codes_of_not_bad hgood
  have ha := startArg_eq_some hgood hk hm
  refine ⟨fun hs => congrArg _ (portFrame_refuses h hf (runSessionStart_badState ha hs)),
    fun hs hbusy => congrArg _ (portFrame_refuses h hf (runSessionStart_busy ha hs hbusy)), fun hs hrb hst hft => ?_⟩
  have hfree : ¬ (s.rollback.state = .aborting ∨ s.drain.state = .stopping ∨ s.drain.state = .faulting) := by
    simp [hrb, hst, hft]
  have accepted : ∀ {kind policy}, sessionKindOf (argField f.args 0 1) = some kind →
      policyOf (argField f.args 5 1) = some policy → exec (.sessionStart f) s = .next (answered .ok [] (startSession
        { kind := kind, p := argField f.args 1 2, q := argField f.args 3 2, policy := policy
          threshold := argField f.args 6 2 } (framed f s))) := fun hk hp =>
    congrArg _ (portFrame_done h hf (runSessionStart_done (startArg_eq_some hgood hk hp) hs hfree))
  have hpolicy : policyOf (argField f.args 5 1) = some (if argField f.args 5 1 = 0 then .skip else .hold) := by
    obtain h0 | h1 : argField f.args 5 1 = 0 ∨ argField f.args 5 1 = 1 := by omega
    · rw [h0]; rfl
    · rw [h1]; rfl
  exact ⟨fun hk => accepted (kind := .triggered) (by rw [hk]; rfl) hpolicy,
    fun hk => accepted (kind := .continuous) (by rw [hk]; rfl) hpolicy⟩

end Sys2Proof.Machine
end

section
/-! The session law, state by state of the session, and what keeps it: a change that the law does not read, a session stop,
the count, and the fire (R65, R66, R83, R87 to R92). -/

namespace Sys2Proof.Machine

/-! ### The law by the session's state -/

/-- What the law says whatever the session's state: the stage list is in range, and so are P, Q and the post-count (R65,
R83). -/
structure State.SessionSound (s : State) : Prop where
  length : 1 ≤ s.seqr.length ∧ s.seqr.length ≤ 8
  stages : ∀ i, 1 ≤ (s.stageAt i).target ∧ (s.stageAt i).target ≤ 65535 ∧ (s.stageAt i).within ≤ 4294967295
  numbers : s.session.p ≤ 511 ∧ s.session.q ≤ 511 ∧ s.session.post ≤ s.session.q

/-- The sequencer is IDLE, with k, c and e at 0 (R88). -/
def Sequencer.Idle (q : Sequencer) : Prop := q.state = .idle ∧ q.stage = 0 ∧ q.count = 0 ∧ q.elapsed = 0

/-- The sequencer is COUNTING below the target and the within of stage k (R87, R90, R92). -/
def State.SeqCounting (s : State) : Prop :=
  s.seqr.state = .counting ∧ s.seqr.stage < s.seqr.length ∧ s.seqr.count < (s.stageAt s.seqr.stage).target ∧
  (s.seqr.elapsed = 0 ∨ s.seqr.elapsed < (s.stageAt s.seqr.stage).within)

/-- The sequencer is DONE, with k and c as the fire left them (R73, R87). -/
def State.SeqDone (s : State) : Prop :=
  s.seqr.state = .done ∧ s.seqr.elapsed = 0 ∧ s.seqr.stage < s.seqr.length ∧
  s.seqr.count ≤ (s.stageAt s.seqr.stage).target

/-- What the law says in each state of the session (R65, R66, R87, R88). -/
abbrev State.SessionAt (s : State) : SessionState → Prop
  | .idle => s.session.kind = none ∧ s.session.stopReason = none ∧ s.session.guardsInForce = false ∧ s.seqr.Idle
  | .running =>
    s.session.kind = some .continuous ∧ s.session.stopReason = none ∧ s.session.guardsInForce = false ∧ s.seqr.Idle
  | .armed =>
    s.session.kind = some .triggered ∧ s.session.stopReason = none ∧ s.session.guardsInForce = false ∧ s.SeqCounting
  | .fired =>
    s.session.kind = some .triggered ∧ s.session.stopReason = none ∧ s.session.guardsInForce = true ∧ s.SeqDone ∧
    s.session.post < s.session.q
  | .captured =>
    s.session.kind = some .triggered ∧ s.session.stopReason = none ∧ s.session.guardsInForce = true ∧ s.SeqDone
  | .stopped => s.session.kind ≠ none ∧ s.session.stopReason.isSome = true ∧ s.seqr.Idle

/-- The law, read in one state of the session: a sequencer that is neither COUNTING nor DONE is IDLE. -/
theorem sessionLaw_iff {s : State} {k : SessionState} (hk : s.session.state = k) :
    s.SessionLaw ↔ s.SessionSound ∧ s.SessionAt k := by
  constructor
  · rintro ⟨hcounting, hdone, hnone, hrun, htrig, hstop, hguard, hforce, hlen, hstages, hzero, hnum, hpost, hatDone,
      hatCounting⟩
    refine ⟨⟨hlen, hstages, hnum⟩, ?_⟩
    have hidle : s.seqr.state ≠ .counting → s.seqr.state ≠ .done → s.seqr.Idle := fun hc hd => by
      have hi : s.seqr.state = .idle := by cases hq : s.seqr.state <;> simp_all
      exact ⟨hi, hzero hi⟩
    simp only [Ne, hcounting, hdone, hk] at hidle hnone hrun htrig hstop hguard hforce hpost
    cases k with
    | idle => exact ⟨hnone.2 rfl, by simpa using hstop, by simpa using hguard, hidle (by simp) (by simp)⟩
    | running => exact ⟨hrun rfl, by simpa using hstop, by simpa using hguard, hidle (by simp) (by simp)⟩
    | armed =>
      have hc := hcounting.2 hk
      exact ⟨htrig (by simp), by simpa using hstop, by simpa using hguard, hc, hatCounting hc⟩
    | fired =>
      have hd := hdone.2 (.inl hk)
      exact ⟨htrig (by simp), by simpa using hstop, hforce (by simp), ⟨hd, hatDone hd⟩, hpost rfl⟩
    | captured =>
      have hd := hdone.2 (.inr hk)
      exact ⟨htrig (by simp), by simpa using hstop, hforce (by simp), hd, hatDone hd⟩
    | stopped => exact ⟨by simpa using hnone, by simpa using hstop, hidle (by simp) (by simp)⟩
  · rintro ⟨⟨hlen, hstages, hnum⟩, hat⟩
    unfold State.SessionLaw
    cases k <;> simp_all [State.SessionAt, Sequencer.Idle, State.SeqCounting, State.SeqDone]

section
variable {s t : State}

theorem State.SessionLaw.sound (h : s.SessionLaw) : s.SessionSound := ((sessionLaw_iff rfl).1 h).1

theorem State.SessionLaw.atState (h : s.SessionLaw) {k : SessionState} (hk : s.session.state = k) : s.SessionAt k :=
  ((sessionLaw_iff hk).1 h).2

theorem State.SessionSound.law (h : s.SessionSound) (k : SessionState) (hat : s.SessionAt k)
    (hk : s.session.state = k := by rfl) : s.SessionLaw :=
  (sessionLaw_iff hk).2 ⟨h, hat⟩

/-! ### What the law reads -/

theorem stageAt_congr (h : t.seqr.stages = s.seqr.stages) (i : Nat) : t.stageAt i = s.stageAt i := by
  simp only [State.stageAt, h]

/-- The law reads the session and the sequencer only. -/
theorem State.SessionLaw.congr (h : s.SessionLaw) (hs : t.session = s.session) (hq : t.seqr = s.seqr) : t.SessionLaw := by
  have hstage := stageAt_congr (s := s) (t := t) (by rw [hq])
  unfold State.SessionLaw at h ⊢
  simpa only [hs, hq, hstage] using h

theorem HoldWork.sessionLaw (k : HoldWork s t) (h : s.SessionLaw) : t.SessionLaw := h.congr k.session k.seqr

theorem RbWork.sessionLaw (k : RbWork s t) (h : s.SessionLaw) : t.SessionLaw := h.congr k.session k.seqr

theorem State.SessionSound.congr (h : s.SessionSound) (hstages : t.seqr.stages = s.seqr.stages)
    (hlength : t.seqr.length = s.seqr.length) (hp : t.session.p = s.session.p) (hq : t.session.q = s.session.q)
    (hpost : t.session.post ≤ s.session.q) : t.SessionSound := by
  obtain ⟨hp', hq', -⟩ := h.numbers
  refine ⟨by rw [hlength]; exact h.length, fun i => by rw [stageAt_congr hstages]; exact h.stages i, ?_⟩
  rw [hp, hq]
  exact ⟨hp', hq', hpost⟩

/-! ### The session stop -/

/-- The law holds, and a session is under way or over (R66). -/
structure State.InSession (s : State) : Prop where
  law : s.SessionLaw
  begun : s.session.kind ≠ none

theorem State.InSession.congr (h : s.InSession) (hs : t.session = s.session) (hq : t.seqr = s.seqr) : t.InSession :=
  ⟨h.law.congr hs hq, by rw [hs]; exact h.begun⟩

theorem State.SessionLaw.inSession (h : s.SessionLaw) (hs : s.session.state ≠ .idle) : s.InSession := by
  refine ⟨h, fun hkind => hs ?_⟩
  obtain ⟨-, -, hnone, -⟩ := h
  exact hnone.1 hkind

/-- A stop ends any session that has begun, and idles the sequencer (R56, R77, R88). -/
theorem stopSession_inSession (h : s.SessionSound) (hbegun : s.session.kind ≠ none) (r : StopReason) :
    (stopSession r s).InSession := by
  have hsession := stopSession_session r s
  have hseqr := stopSession_seqr r s
  obtain ⟨-, -, hpost⟩ := h.numbers
  have hsound : (stopSession r s).SessionSound := by
    refine h.congr ?_ ?_ ?_ ?_ ?_ <;> simp only [hsession, hseqr]
    exact hpost
  have hidle : (stopSession r s).seqr.Idle := by
    rw [hseqr]
    exact ⟨rfl, rfl, rfl, rfl⟩
  have hbegun : (stopSession r s).session.kind ≠ none := by rwa [hsession]
  exact ⟨hsound.law .stopped ⟨hbegun, by rw [hsession]; rfl, hidle⟩ (by rw [hsession]), hbegun⟩

theorem exhaust_inSession (h : s.SessionSound) (hbegun : s.session.kind ≠ none) : (exhaust s).InSession :=
  stopSession_inSession (s := raise .seqExhausted s) ⟨h.length, h.stages, h.numbers⟩ hbegun _

/-! ### Records -/

theorem pushRec_inSession (h : s.InSession) (discard : Bool) (body : RecBody) (time : Time) :
    (pushRec discard body time s).InSession :=
  h.congr (pushRec_session ..) (pushRec_seqr ..)

theorem appendRec_inSession (h : s.InSession) (discard : Bool) (body : RecBody) (time : Time) :
    (appendRec discard body time s).InSession := by
  have hpush := pushRec_inSession h discard body time
  unfold appendRec
  split
  · exact exhaust_inSession hpush.law.sound hpush.begun
  · exact hpush

theorem appendGap_inSession (h : s.InSession) (n : Nat) : (appendGap n s).InSession :=
  appendRec_inSession (s := { s with ring := { s.ring with gap := 0 } }) (h.congr rfl rfl) ..

theorem appendSkip_inSession (h : s.InSession) (body : RecBody) (time : Time) : (appendSkip body time s).InSession := by
  unfold appendSkip
  split
  · exact h.congr rfl rfl
  split
  · exact appendRec_inSession h ..
  split
  · exact appendGap_inSession h _
  dsimp only
  split
  · exact appendRec_inSession (appendGap_inSession h _) ..
  · exact appendGap_inSession h _

theorem appendHold_inSession (h : s.InSession) (d : Draft) : (appendHold d s).1.InSession := by
  unfold appendHold
  split
  · exact h.congr rfl rfl
  split
  · exact appendRec_inSession h ..
  dsimp only
  split
  · split
    · exact appendGap_inSession h _
    · exact appendRec_inSession (appendGap_inSession h _) ..
  · exact appendGap_inSession h _

theorem finishAhead_sessionLaw (h : s.SessionLaw) (i : Nat) (w : HeldWrite) : (finishAhead i w s).SessionLaw :=
  (finishAhead_holdWork i w s).sessionLaw h

theorem serveSlot_inSession (h : s.InSession) (i : Nat) (w : HeldWrite) (d : Draft) (rest : List Nat) :
    (serveSlot i w d rest s).InSession := by
  have happend := appendRec_inSession (s := { s with ring := { s.ring with slotList := rest } }) (h.congr rfl rfl) false
    d.body d.time
  have hfinish := finishAhead_holdWork i w
    (appendRec false d.body d.time { s with ring := { s.ring with slotList := rest } })
  exact happend.congr hfinish.session hfinish.seqr

end

theorem serveList_inSession : ∀ (l : List Nat) {s : State}, s.InSession → (serveList l s).InSession
  | [], _, h => h
  | i :: rest, s, h => by
    unfold serveList
    split
    · split
      · split
        · exact serveList_inSession rest (serveSlot_inSession h ..)
        · dsimp only
          split
          · exact serveList_inSession rest (serveSlot_inSession (appendGap_inSession h _) ..)
          · exact appendGap_inSession h _
      all_goals exact h
    · exact h

/-- The ring-slot arbiter serves in a RUNNING session only (R54). -/
theorem serveSlots_sessionLaw {s : State} (h : s.SessionLaw) : (serveSlots s).SessionLaw := by
  by_cases hs : s.session.state = .running
  · exact (serveList_inSession _ (h.inSession (by simp [hs]))).law
  · rw [serveSlots, serveList_idle (.inl hs)]
    exact h

section
variable {s : State}

theorem appendArmed_inSession (h : s.InSession) (body : RecBody) (time : Time) : (appendArmed body time s).InSession := by
  unfold appendArmed
  split
  · exact h
  · exact appendRec_inSession h ..

/-- The Q-th record of a FIRED session brings CAPTURED, and the last number a stop; the post-count stays within Q either way
(R47, R71). -/
theorem appendFired_sessionLaw (h : s.SessionLaw) (hs : s.session.state = .fired) (body : RecBody) (time : Time) :
    (appendFired body time s).SessionLaw := by
  obtain ⟨hkind, hreason, hguards, hdone, hpost⟩ := h.atState hs
  have hseqr : (firedPushed body time s).seqr = s.seqr := pushRec_seqr ..
  have hsound : (firedPushed body time s).SessionSound :=
    h.sound.congr (by rw [hseqr]) (by rw [hseqr]) rfl rfl hpost
  have hdone : (firedPushed body time s).SeqDone := by
    unfold State.SeqDone
    rw [hseqr, stageAt_congr (s := s) (by rw [hseqr])]
    exact hdone
  by_cases hlast : s.ring.nextSeq = lastSeq
  · rw [appendFired_of_eq body time hlast]
    exact (exhaust_inSession hsound (by simp [firedPushed, hkind])).law
  · rw [appendFired_of_ne body time hlast]
    split
    · exact State.SessionSound.law ⟨hsound.length, hsound.stages, hsound.numbers⟩ .captured ⟨hkind, hreason, hguards, hdone⟩
    next hq => exact hsound.law .fired ⟨hkind, hreason, hguards, hdone, Nat.lt_of_not_le hq⟩ hs

theorem appendRefused_sessionLaw (h : s.SessionLaw) (info : WriteInfo) : (appendRefused info s).SessionLaw := by
  unfold appendRefused
  split
  next hs => exact (appendSkip_inSession (h.inSession (by simp [hs])) ..).law
  next hs => exact (appendArmed_inSession (h.inSession (by simp [hs])) ..).law
  next hs => exact appendFired_sessionLaw h hs ..
  all_goals exact h

theorem appendWrite_sessionLaw (h : s.SessionLaw) (d : Draft) : (appendWrite d s).1.SessionLaw := by
  unfold appendWrite
  split
  next hs =>
    have hin := h.inSession (by simp [hs])
    split
    · exact (appendHold_inSession hin d).law
    · exact (appendSkip_inSession hin ..).law
  next hs => exact (appendArmed_inSession (h.inSession (by simp [hs])) ..).law
  next hs => exact appendFired_sessionLaw h hs ..
  all_goals exact h

/-! ### The sequencer -/

/-- A fire takes an ARMED session to FIRED, or with Q of 0 to CAPTURED, and a marker with the last number stops it again
(R47, R73). The count may stand at its target, as a fire by the last stage leaves it (R90). -/
theorem fire_sessionLaw (h : s.SessionLaw) (hs : s.session.state = .armed) {n : Nat}
    (hn : n ≤ (s.stageAt s.seqr.stage).target) (c : Cause) :
    (fire c { s with seqr := { s.seqr with count := n } }).SessionLaw := by
  obtain ⟨hkind, hreason, -, -, hstage, -, -⟩ := h.atState hs
  have hsound : (fireMarked c { s with seqr := { s.seqr with count := n } }).SessionSound :=
    h.sound.congr rfl rfl rfl rfl (Nat.zero_le _)
  have hdone : (fireMarked c { s with seqr := { s.seqr with count := n } }).SeqDone := ⟨rfl, rfl, hstage, hn⟩
  have hlaw : (fireMarked c { s with seqr := { s.seqr with count := n } }).SessionLaw := by
    by_cases hq : s.session.q = 0
    · exact hsound.law .captured ⟨hkind, hreason, rfl, hdone⟩ (if_pos hq)
    · exact hsound.law .fired ⟨hkind, hreason, rfl, hdone, Nat.pos_of_ne_zero hq⟩ (if_neg hq)
  rw [fire_eq]
  split
  · split
    · exact hlaw.congr rfl rfl
    · exact (exhaust_inSession hsound (by simp [fireMarked, hkind])).law
  · exact hlaw

theorem State.SessionLaw.armed_of_counting (h : s.SessionLaw) (hq : s.seqr.state = .counting) :
    s.session.state = .armed := by
  obtain ⟨hcounting, -⟩ := h
  exact hcounting.1 hq

/-- A count stays below its target, moves on to the next stage, or fires (R90). -/
theorem takeCount_sessionLaw (h : s.SessionLaw) (hq : s.seqr.state = .counting) : (takeCount s).SessionLaw := by
  have hs := h.armed_of_counting hq
  obtain ⟨hkind, hreason, hguards, -, hstage, hcount, helapsed⟩ := h.atState hs
  have hsound : ∀ k c e, State.SessionSound { s with seqr := { s.seqr with stage := k, count := c, elapsed := e } } :=
    fun _ _ _ => ⟨h.sound.length, h.sound.stages, h.sound.numbers⟩
  unfold takeCount
  split
  next hbelow => exact (hsound ..).law .armed ⟨hkind, hreason, hguards, hq, hstage, hbelow, helapsed⟩ hs
  split
  next hnext =>
    obtain ⟨hpos, -⟩ := h.sound.stages (s.seqr.stage + 1)
    exact (hsound ..).law .armed ⟨hkind, hreason, hguards, hq, hnext, hpos, .inl rfl⟩ hs
  · exact fire_sessionLaw h hs hcount _

theorem countStep_sessionLaw (h : s.SessionLaw) (b : Bool) : (countStep b s).SessionLaw := by
  rw [countStep_eq]
  split
  next hcount => exact takeCount_sessionLaw h hcount.2
  · exact h

/-- A tick stays below the within of its stage, or starts the stages again (R92). -/
theorem seqTick_sessionLaw (h : s.SessionLaw) : (seqTick s).SessionLaw := by
  unfold seqTick
  split
  next hq =>
    have hs := h.armed_of_counting hq
    obtain ⟨hkind, hreason, hguards, -, hstage, hcount, -⟩ := h.atState hs
    obtain ⟨hlen, hstages, hnum⟩ := h.sound
    split
    · exact h
    split
    next hbelow =>
      exact State.SessionSound.law ⟨hlen, hstages, hnum⟩ .armed ⟨hkind, hreason, hguards, hq, hstage, hcount, .inr hbelow⟩ hs
    · exact State.SessionSound.law ⟨hlen, hstages, hnum⟩ .armed
        ⟨hkind, hreason, hguards, hq, hlen.1, (hstages 0).1, .inl rfl⟩ hs
  all_goals exact h

theorem tickAll_sessionLaw (h : s.SessionLaw) : (tickAll s).SessionLaw := by
  unfold tickAll
  split
  · exact h
  · exact seqTick_sessionLaw (h.congr rfl rfl)

end

end Sys2Proof.Machine
end

section
/-! The session law at every step: resolutions, responses, the commands of the port, and every command. -/

namespace Sys2Proof.Machine

section
variable {s : State}

/-! ### The end of an event -/

@[simp] theorem settle_session (s : State) : (settle s).session = s.session := (settle_grantWork s).session

@[simp] theorem settle_seqr (s : State) : (settle s).seqr = s.seqr := (settle_grantWork s).seqr

theorem settle_sessionLaw (h : s.SessionLaw) : (settle s).SessionLaw := h.congr (settle_session s) (settle_seqr s)

/-! ### Resolution -/

theorem resolveRefused_sessionLaw (h : s.SessionLaw) (i : Nat) (w : HeldWrite) (old : Option (List Byte)) (hits : Set16) :
    (resolveRefused i w old hits s).SessionLaw := by
  have hrecord : (refusalRecord (recordInfo w hits old) hits s).SessionLaw := by
    have hraise : (raise .refusal s).SessionLaw := h.congr rfl rfl
    unfold refusalRecord
    split
    · exact appendRefused_sessionLaw hraise _
    · exact hraise
  exact (release_holdWork i _).sessionLaw
    (State.SessionLaw.congr (t := respond w.req.tag .refused [] _) (countStep_sessionLaw hrecord (s.counts hits)) rfl rfl)

theorem resolveAhead_sessionLaw (h : s.SessionLaw) (i : Nat) (a : Addr) (w : HeldWrite) (old : Option (List Byte))
    (l : List Parked) (hits : Set16) : (resolveAhead i a w old l hits s).SessionLaw := by
  unfold resolveAhead
  dsimp only
  split
  · have happend := appendWrite_sessionLaw h { time := s.time.counter, info := recordInfo w (s.recordSet hits) old }
    split
    next t ht =>
      rw [ht] at happend
      exact happend.congr rfl rfl
    next t ht =>
      rw [ht] at happend
      exact finishAhead_sessionLaw (countStep_sessionLaw happend _) ..
  · exact finishAhead_sessionLaw (countStep_sessionLaw h _) ..

theorem resolve_sessionLaw (h : s.SessionLaw) (i : Nat) (a : Addr) (w : HeldWrite) (old : Option (List Byte))
    (l : List Parked) : (resolve i a w old l s).SessionLaw := by
  unfold resolve
  dsimp only
  split
  · exact resolveRefused_sessionLaw h ..
  · exact resolveAhead_sessionLaw h ..

/-! ### Responses -/

theorem offerFault_sessionLaw (h : s.SessionLaw) (k : FaultKind) (p : FaultPort) (t : MemTag) (a : Option Addr) :
    (offerFault k p t a s).SessionLaw := by
  rw [offerFault_eq]
  exact h.congr rfl rfl

theorem retireAll_sessionLaw (h : s.SessionLaw) : (retireAll s).SessionLaw := by
  obtain ⟨k, items, rest, -, hr, -⟩ := retire_does s.drain.inFlight s rfl
  have hretire : (retire s.drain.inFlight s).SessionLaw := by
    rw [hr]
    exact h.congr rfl rfl
  refine serveSlots_sessionLaw ?_
  unfold raiseIf
  split
  · exact hretire.congr rfl rfl
  · exact hretire

theorem drainQuiesce_sessionLaw (h : s.SessionLaw) : (drainQuiesce s).SessionLaw := by
  unfold drainQuiesce
  repeat' split
  all_goals exact h.congr rfl rfl

theorem drainResponded_sessionLaw (h : s.SessionLaw) (o : Outstanding) (st : MemStatus) :
    (drainResponded o st s).SessionLaw := by
  unfold drainResponded
  split
  · split
    · exact drainQuiesce_sessionLaw h
    · exact drainQuiesce_sessionLaw (retireAll_sessionLaw (h.congr rfl rfl))
  · have hfault := offerFault_sessionLaw (s := raise .drainFault s) (h.congr rfl rfl) .drainFault .memory o.req.tag
      (some o.req.addr)
    dsimp only
    split
    · exact drainQuiesce_sessionLaw hfault
    · exact drainQuiesce_sessionLaw (hfault.congr rfl rfl)

theorem setOutcome_sessionLaw (h : s.SessionLaw) (tag : HostTag) (o : RecOutcome) : (setOutcome tag o s).SessionLaw := by
  unfold setOutcome
  split <;> exact h.congr rfl rfl

theorem hostResponded_sessionLaw (h : s.SessionLaw) (m : MemReq) (st : MemStatus) (data : List Byte) :
    (hostResponded m st data s).SessionLaw := by
  unfold hostResponded
  split
  · split <;> exact h.congr rfl rfl
  · exact (setOutcome_sessionLaw h ..).congr (respond_session ..) (respond_seqr ..)

theorem prereadResponded_sessionLaw (h : s.SessionLaw) (i : Nat) (st : MemStatus) (data : List Byte) :
    (prereadResponded i st data s).SessionLaw := by
  unfold prereadResponded
  split
  · split
    · exact resolve_sessionLaw h ..
    · exact resolve_sessionLaw (offerFault_sessionLaw (s := raise .prereadFault s) (h.congr rfl rfl) ..) ..
  all_goals exact h

/-- A response to the host or to the engine reads and writes neither block; a pre-read's may record, count and fire, and a
drain line's may serve the slot waits (R146). -/
theorem ownerResponded_sessionLaw (h : s.SessionLaw) (o : Outstanding) (st : MemStatus) (data : List Byte) :
    (ownerResponded o st data s).SessionLaw := by
  unfold ownerResponded
  split
  · exact hostResponded_sessionLaw h ..
  split
  · exact prereadResponded_sessionLaw h ..
  split
  · split
    · exact (checkResponded_rbWork ..).sessionLaw h
    · exact (restoreResponded_rbWork ..).sessionLaw h
  · exact drainResponded_sessionLaw h ..

theorem useFree_sessionLaw (h : s.SessionLaw) (n : Nat) (data : List Byte) : (useFree n data s).SessionLaw := by
  unfold useFree
  split
  · exact h
  · exact h.congr rfl rfl

theorem routeResponse_sessionLaw (h : s.SessionLaw) (tag : MemTag) (st : MemStatus) (data : List Byte) :
    (routeResponse tag st data s).SessionLaw := by
  unfold routeResponse
  split
  · exact h
  split
  · exact offerFault_sessionLaw (s := raise .strayResponse s) (h.congr rfl rfl) ..
  next o _ =>
    have hfree : (responseFree o.req st data s).SessionLaw := by
      unfold responseFree
      split
      · exact useFree_sessionLaw h ..
      all_goals exact h
    have hclosed : (closeTag tag (responseFree o.req st data s)).SessionLaw := hfree.congr rfl rfl
    exact settle_sessionLaw (ownerResponded_sessionLaw hclosed ..)

/-! ### Requests -/

theorem violation_sessionLaw (h : s.SessionLaw) (r : HostReq) : (violation r s).SessionLaw :=
  offerFault_sessionLaw (s := raise .protocol s) (h.congr rfl rfl) ..

theorem arrive_sessionLaw (h : s.SessionLaw) (r : HostReq) : (arrive r s).SessionLaw := by
  unfold arrive
  split
  · exact violation_sessionLaw h r
  split
  · exact violation_sessionLaw (s := { s with host := { s.host with sent := s.host.sent ++ [.creditReturn] } })
      (h.congr rfl rfl) r
  · exact h.congr rfl rfl

theorem classifyHead_sessionLaw (h : s.SessionLaw) (r : HostReq) : (classifyHead r s).SessionLaw := by
  have hpop : (popHead s).SessionLaw := h.congr rfl rfl
  unfold classifyHead
  split
  · exact (violation_sessionLaw hpop r).congr rfl rfl
  split
  · exact (park_holdWork ..).sessionLaw hpop
  split
  · exact h.congr rfl rfl
  split
  next i hfree => exact (takeEntry_holdWork i _ _ (freeEntry_eq_some hfree).1).sessionLaw hpop
  · exact h.congr rfl rfl

/-! ### Reset and clears -/

theorem reset_sessionLaw : State.reset.SessionLaw := by
  obtain ⟨-, -, -, -, -, hreset, -⟩ := lawsHoldAtReset
  exact hreset

/-- A clear leaves the reset session and an IDLE sequencer, whatever it does to the drain (R79, R96). -/
theorem clearSessionWork_sessionLaw {dc : State → State} (hd : ∀ t, dc t = { t with drain := (dc t).drain })
    (h : s.SessionSound) : (clearSessionWork dc s).SessionLaw := by
  obtain ⟨t, ht, hwork⟩ := clearSessionWork_does dc s
  have hcleared : (sessionCleared s).SessionLaw :=
    State.SessionSound.law ⟨h.length, h.stages, Nat.zero_le _, Nat.zero_le _, Nat.le_refl _⟩ .idle
      ⟨rfl, rfl, rfl, rfl, rfl, rfl, rfl⟩
  rw [ht, hd]
  exact ((endEarly_rbWork .cleared t).sessionLaw (hwork.sessionLaw hcleared)).congr rfl rfl

theorem clearScope_sessionLaw (scope : ClearScope) (h : s.SessionLaw) : (clearScope scope s).SessionLaw := by
  cases scope with
  | session => exact settle_sessionLaw (clearSessionWork_sessionLaw drainClearSession_same h.sound)
  | windows => exact h.congr rfl rfl
  | events => exact h.congr rfl rfl
  | all =>
    have hreset := reset_sessionLaw.sound
    exact settle_sessionLaw (clearSessionWork_sessionLaw drainClearAll_same ⟨hreset.length, hreset.stages, h.sound.numbers⟩)

/-! ### Commands of the sequencer and the session -/

/-- A stage record that SEQ_SET accepts is in range (R83, R84). -/
theorem stageArg_inRange {args : List Byte} {st : Stage} (h : stageArg args = some st) :
    1 ≤ st.target ∧ st.target ≤ 65535 ∧ st.within ≤ 4294967295 := by
  have htarget := argField_lt args 2 2
  have hwithin := argField_lt args 4 4
  unfold stageArg at h
  split at h
  · split at h
    · simp at h
    next hpos =>
      obtain rfl := Option.some.inj h
      dsimp only
      omega
  · simp at h

/-- A stage of the changed list is the new record or a stage of the old list. -/
theorem stageAt_setIfInBounds (s : State) (st : Stage) (j i : Nat) :
    State.stageAt { s with seqr := { s.seqr with stages := s.seqr.stages.setIfInBounds j st } } i = st ∨
    State.stageAt { s with seqr := { s.seqr with stages := s.seqr.stages.setIfInBounds j st } } i = s.stageAt i := by
  simp only [State.stageAt, Vector.getElem?_setIfInBounds]
  by_cases hji : j = i
  · by_cases hj : j < 8
    · exact .inl (by rw [if_pos hji, if_pos hj]; rfl)
    · exact .inr (by rw [if_pos hji, if_neg hj, Vector.getElem?_eq_none (by omega)])
  · exact .inr (by rw [if_neg hji])

/-- In IDLE the stage list and N may change within their ranges: no count stands against them (R84, R85). -/
theorem sessionLaw_programmed (h : s.SessionLaw) (hs : s.session.state = .idle) {stages : Vector Stage 8} {n : Nat}
    (hn : 1 ≤ n ∧ n ≤ 8)
    (hstages : ∀ i, let st := State.stageAt { s with seqr := { s.seqr with stages := stages } } i
      1 ≤ st.target ∧ st.target ≤ 65535 ∧ st.within ≤ 4294967295) :
    State.SessionLaw { s with seqr := { s.seqr with stages := stages, length := n } } :=
  State.SessionSound.law ⟨hn, hstages, h.sound.numbers⟩ .idle (h.atState hs) hs

theorem runSeqSet_sessionLaw (h : s.SessionLaw) (args : List Byte) : (runSeqSet args s).state.SessionLaw := by
  unfold runSeqSet
  split
  · exact h
  split
  · exact h
  next hidle =>
    split
    next st hst =>
      refine sessionLaw_programmed h (not_not.1 hidle) h.sound.length fun i => ?_
      rcases stageAt_setIfInBounds s st (argField args 0 1) i with hi | hi <;> rw [hi]
      · exact stageArg_inRange hst
      · exact h.sound.stages i
    · exact h

theorem runSeqLength_sessionLaw (h : s.SessionLaw) (args : List Byte) : (runSeqLength args s).state.SessionLaw := by
  unfold runSeqLength
  split
  · exact h
  next hn =>
    split
    · exact h
    next hidle => exact sessionLaw_programmed h (not_not.1 hidle) (by omega) h.sound.stages

theorem runSeqFire_sessionLaw (h : s.SessionLaw) : (runSeqFire s).state.SessionLaw := by
  unfold runSeqFire
  split
  next hs =>
    obtain ⟨-, -, -, -, -, hcount, -⟩ := h.atState hs
    exact fire_sessionLaw h hs hcount.le .manual
  · exact h

theorem startArg_pq {args : List Byte} {a : StartArgs} (h : startArg args = some a) : a.p ≤ 511 ∧ a.q ≤ 511 := by
  have hgood : ¬ startArgBad args := fun hbad => by simp [startArg_eq_none hbad] at h
  obtain ⟨kind, policy, hk, hp⟩ := codes_of_not_bad hgood
  obtain rfl := Option.some.inj ((startArg_eq_some hgood hk hp).symm.trans h)
  unfold startArgBad at hgood
  dsimp only
  omega

/-- A session begins from IDLE, where no guard is in force and every count is 0 (R68, R88). -/
theorem startSession_sessionLaw (h : s.SessionLaw) (hs : s.session.state = .idle) {a : StartArgs}
    (ha : a.p ≤ 511 ∧ a.q ≤ 511) : (startSession a s).SessionLaw := by
  obtain ⟨-, hreason, hguards, hidle⟩ := h.atState hs
  obtain ⟨hlen, hstages, hnum⟩ := h.sound
  unfold startSession
  split
  · exact settle_sessionLaw (State.SessionSound.law ⟨hlen, hstages, hnum⟩ .running ⟨rfl, hreason, hguards, hidle⟩)
  · exact State.SessionSound.law ⟨hlen, hstages, ha.1, ha.2, Nat.zero_le _⟩ .armed
      ⟨rfl, hreason, hguards, rfl, hlen.1, (hstages 0).1, .inl rfl⟩

theorem runSessionStart_sessionLaw (h : s.SessionLaw) (args : List Byte) : (runSessionStart args s).state.SessionLaw := by
  unfold runSessionStart
  split
  · exact h
  next a ha =>
    split
    · exact h
    next hidle =>
      split
      · exact h
      · exact startSession_sessionLaw h (not_not.1 hidle) (startArg_pq ha)

theorem runSessionStop_sessionLaw (h : s.SessionLaw) : (runSessionStop s).state.SessionLaw := by
  unfold runSessionStop
  split
  next hrec =>
    have hbegun := h.inSession fun hs => by simp [State.recording, hs] at hrec
    exact settle_sessionLaw (stopSession_inSession h.sound hbegun.begun _).law
  · exact h

/-! ### Commands of the other blocks -/

theorem runRingRelease_sessionLaw (h : s.SessionLaw) (args : List Byte) : (runRingRelease args s).state.SessionLaw := by
  unfold runRingRelease
  split
  · exact h
  split
  · exact h
  · exact settle_sessionLaw (serveSlots_sessionLaw (h.congr rfl rfl))

theorem portFrame_sessionLaw {code : Byte} {argc : Nat} {run : List Byte → State → Reply} {f : Frame} (hs : s.SessionLaw)
    (h : ∀ t : State, t.SessionLaw → (run f.args t).state.SessionLaw) : (portFrame code argc run f s).SessionLaw :=
  portFrame_preserves (P := State.SessionLaw) (fun _ _ ht => ht.congr rfl rfl) hs h

end

/-! ### Every command -/

@[simp] theorem visit_session (n : Nat) (s : State) : (visit n s).session = s.session := (visit_rbWork n s).session

@[simp] theorem visit_seqr (n : Nat) (s : State) : (visit n s).seqr = s.seqr := (visit_rbWork n s).seqr

@[simp] theorem endEarly_session (why : RbPending) (s : State) : (endEarly why s).session = s.session :=
  (endEarly_rbWork why s).session

@[simp] theorem endEarly_seqr (why : RbPending) (s : State) : (endEarly why s).seqr = s.seqr :=
  (endEarly_rbWork why s).seqr

/-- Every command keeps the session law. -/
theorem exec_sessionLaw {c : Instr} {s t : State} (hs : s.SessionLaw) (h : exec c s = .next t) : t.SessionLaw := by
  have next : ∀ {u : State}, u.SessionLaw → (.next u : Host.Outcome State Fault Refusal) = .next t → t.SessionLaw :=
    fun hu e => Host.Outcome.next.inj e ▸ hu
  cases c with
  | pinReset => exact next (by exact reset_sessionLaw.congr rfl rfl) h
  | resetNRelease | hostCreditOffer | emptyFrame => exact next (by split <;> exact hs.congr rfl rfl) h
  | readReq => exact next (by split <;> [exact hs; exact arrive_sessionLaw hs _]) h
  | writeReq => exact next (by split <;> [exact hs; exact arrive_sessionLaw (useFree_sessionLaw hs ..) _]) h
  | creditAnnouncement => exact next (by split <;> [exact hs; exact settle_sessionLaw (hs.congr rfl rfl)]) h
  | classification =>
    refine next ?_ h
    split
    · exact hs
    split
    · exact hs
    · exact hs
    · exact settle_sessionLaw (classifyHead_sessionLaw hs _)
  | tick | stageExpiry => exact next (tickAll_sessionLaw hs) h
  | prereadResponse | memoryResponse | checkReadResponse | restoreResponse | drainResponse | strayResponse =>
    exact next (routeResponse_sessionLaw hs ..) h
  | clearSession | clearWindows | clearEvents | clearAll =>
    refine next (portFrame_sessionLaw hs fun u hu => ?_) h
    unfold runClear
    split
    · exact clearScope_sessionLaw _ hu
    · exact hu
  | seqSet => exact next (portFrame_sessionLaw hs fun u hu => runSeqSet_sessionLaw hu _) h
  | seqLength => exact next (portFrame_sessionLaw hs fun u hu => runSeqLength_sessionLaw hu _) h
  | seqFire => exact next (portFrame_sessionLaw hs fun u hu => runSeqFire_sessionLaw hu) h
  | sessionStart => exact next (portFrame_sessionLaw hs fun u hu => runSessionStart_sessionLaw hu _) h
  | sessionStop => exact next (portFrame_sessionLaw hs fun u hu => runSessionStop_sessionLaw hu) h
  | ringRelease => exact next (portFrame_sessionLaw hs fun u hu => runRingRelease_sessionLaw hu _) h
  | bypass =>
    refine next (portFrame_sessionLaw hs fun u hu => ?_) h
    rw [done_state]
    split
    · have hslots := releaseSlots_does true u.ring.slotList { u with engaged := false }
      exact settle_sessionLaw (hslots.sessionLaw (hu.congr rfl rfl))
    · exact hu
  | winSet | winGet | winEnable | winDisable | seqGet | ringRead | holdRead | spillSet | spillConsume | drainRestart
  | rollbackStart | rollbackAbort =>
    -- a refusal leaves the state, and no effect of these commands touches the session or the sequencer
    refine next (portFrame_sessionLaw hs fun u hu => hu.congr ?_ ?_) h
    all_goals
      simp only [runWinSet, runWinGet, runWinEnabled, runSeqGet, runRingRead, runHoldRead, runSpillSet, spillSet,
        runSpillConsume, runDrainRestart, runRollbackStart, startRollback, runRollbackAbort]
      repeat' split
      all_goals simp
  | _ => exact next (portFrame_sessionLaw hs fun u hu => hu.congr rfl rfl) h

/-- Settles O56: a command keeps the law, and a period of REFCLK is at most a tick. -/
theorem sessionLawKept : Obligations.SessionLawKept := by
  intro s t hs h
  rcases step_cases h with rfl | ⟨c, rest, hc⟩
  · unfold refclkPeriod
    split
    · exact hs
    split
    · exact hs.congr rfl rfl
    · exact tickAll_sessionLaw hs
  · exact exec_sessionLaw (s := { s with pending := rest }) (hs.congr rfl rfl) hc

end Sys2Proof.Machine
end

section
/-! The trigger sequencer: which writes count and what a count does, a tick and its stage limit, and the two commands that
program it (R84, R85, R89, R90, R92, R152). -/

namespace Sys2Proof.Machine

section
variable {s : State}

/-! ### The count -/

theorem set16_ne_zero_iff {m : Set16} : m ≠ 0 ↔ ∃ i < 16, m.getLsbD i = true := by
  rw [Ne, BitVec.eq_of_getLsbD_eq_iff]
  simp

theorem stageHit_window {w : BitVec 4} (h : (s.stageAt s.seqr.stage).window = some w) (hits : Set16) :
    s.stageHit hits = hits.getLsbD w.toNat := by
  rw [State.stageHit, h]

theorem stageHit_any (h : (s.stageAt s.seqr.stage).window = none) (hits : Set16) : s.stageHit hits = (hits != 0) := by
  rw [State.stageHit, h]

theorem counts_iff (hits : Set16) :
    s.counts hits = true ↔ s.session.state = .armed ∧ s.seqr.state = .counting ∧ s.stageHit hits = true := by
  simp [State.counts, and_assoc]

theorem takeCount_below (h : s.seqr.count + 1 < (s.stageAt s.seqr.stage).target) :
    takeCount s = { s with seqr := { s.seqr with count := s.seqr.count + 1 } } :=
  if_pos h

theorem takeCount_nextStage (h : (s.stageAt s.seqr.stage).target ≤ s.seqr.count + 1) (hn : s.seqr.stage + 1 < s.seqr.length) :
    takeCount s = { s with seqr := { s.seqr with stage := s.seqr.stage + 1, count := 0, elapsed := 0 } } := by
  rw [takeCount, if_neg (Nat.not_lt.2 h), if_pos hn]

theorem takeCount_lastStage (h : (s.stageAt s.seqr.stage).target ≤ s.seqr.count + 1) (hn : s.seqr.length ≤ s.seqr.stage + 1) :
    takeCount s = fire (.sequence s.seqr.stage) { s with seqr := { s.seqr with count := s.seqr.count + 1 } } := by
  rw [takeCount, if_neg (Nat.not_lt.2 h), if_neg (Nat.not_lt.2 hn)]

end

/-- Settles O21: the stage's window, or ANY, decides which writes count, and the target and N what a count does. -/
theorem countTaken : Obligations.CountTaken := by
  refine ⟨fun s hits => ⟨fun w hw => ?_, fun hany => ?_⟩, fun s => ⟨takeCount_below, takeCount_nextStage, takeCount_lastStage⟩⟩
  · rw [counts_iff, stageHit_window hw]
  · rw [counts_iff, stageHit_any hany, bne_iff_ne, set16_ne_zero_iff]

/-! ### Ticks and periods -/

section
variable {s : State}

theorem seqTick_unlimited (h : s.seqr.state ≠ .counting ∨ (s.stageAt s.seqr.stage).within = 0) : seqTick s = s := by
  unfold seqTick
  split
  next hcounting => exact if_pos (h.resolve_left (not_not.2 hcounting))
  all_goals rfl

theorem seqTick_within (hs : s.seqr.state = .counting) (h : s.seqr.elapsed + 1 < (s.stageAt s.seqr.stage).within) :
    seqTick s = { s with seqr := { s.seqr with elapsed := s.seqr.elapsed + 1 } } := by
  have hlimit : (s.stageAt s.seqr.stage).within ≠ 0 := by omega
  rw [seqTick, hs]
  dsimp only
  rw [if_neg hlimit, if_pos h]

theorem seqTick_expired (hs : s.seqr.state = .counting) (hlimit : (s.stageAt s.seqr.stage).within ≠ 0)
    (h : (s.stageAt s.seqr.stage).within ≤ s.seqr.elapsed + 1) :
    seqTick s = raise .stageTimeout { s with seqr := { s.seqr with stage := 0, count := 0, elapsed := 0 } } := by
  rw [seqTick, hs]
  dsimp only
  rw [if_neg hlimit, if_neg (Nat.not_lt.2 h)]

theorem tickAll_released (h : s.resetHeld = false) : tickAll s = seqTick { s with time := s.time.ticked } := by
  simp [tickAll, h]

/-- TICK and STAGE_EXPIRY are one event (R92; log entry 6). -/
theorem exec_tick {c : Instr} (h : s.resetHeld = false) (hc : c = .tick ∨ c = .stageExpiry) :
    exec c s = .next (seqTick { s with time := s.time.ticked }) := by
  rcases hc with rfl | rfl <;> exact congrArg _ (tickAll_released h)

/-- With no command waiting, one period of REFCLK elapses (log entry 2). -/
theorem step_idle (h : s.pending = []) : step s = .next (refclkPeriod s) := by
  rw [step, h]

theorem refclkPeriod_held (h : s.resetHeld = true) : refclkPeriod s = s := by simp [refclkPeriod, h]

theorem refclkPeriod_inTick (h : s.resetHeld = false) (hp : s.time.periods < s.time.tickPrescale.toNat) :
    refclkPeriod s = { s with time := { s.time with periods := s.time.periods + 1 } } := by
  simp [refclkPeriod, h, hp]

theorem refclkPeriod_endsTick (h : s.resetHeld = false) (hp : s.time.tickPrescale.toNat ≤ s.time.periods) :
    refclkPeriod s = tickAll s := by
  simp [refclkPeriod, h, Nat.not_lt.2 hp]

end

/-- Settles O22: a tick is `seqTick` after the time base's own, and a period is nothing, a part of a tick or its end. -/
theorem ticksAndPeriods : Obligations.TicksAndPeriods := by
  refine ⟨?_, fun s hp => ?_⟩
  · rintro s c tm h hc rfl
    rw [exec_tick h hc]
    exact ⟨fun hnone => congrArg _ (seqTick_unlimited hnone), fun hs hin => congrArg _ (seqTick_within hs hin),
      fun hs hlimit hout => congrArg _ (seqTick_expired hs hlimit hout)⟩
  · rw [step_idle hp]
    exact ⟨fun hheld => congrArg _ (refclkPeriod_held hheld), fun h hin => congrArg _ (refclkPeriod_inTick h hin),
      fun h hend => congrArg _ (refclkPeriod_endsTick h hend)⟩

/-! ### SEQ_SET and SEQ_LENGTH -/

theorem stageWindowCode_range (w : Option (BitVec 4)) : stageWindowCode w ≤ 15 ∨ stageWindowCode w = 255 := by
  cases w with
  | none => exact .inr rfl
  | some w => exact .inl (Nat.le_of_lt_succ w.isLt)

theorem stageWindowOf_eq_some {n : Nat} {w : Option (BitVec 4)} : stageWindowOf n = some w ↔ n = stageWindowCode w := by
  unfold stageWindowOf
  split
  next hany =>
    cases w with
    | none => simp [stageWindowCode, hany]
    | some w =>
      have := w.isLt
      simp only [stageWindowCode, Option.some.injEq, reduceCtorEq, false_iff]
      omega
  split
  next hany hn =>
    cases w with
    | none => simp [stageWindowCode, hany]
    | some w => simp [stageWindowCode, ← BitVec.toNat_inj, Nat.mod_eq_of_lt hn]
  next hany hn =>
    have := stageWindowCode_range w
    simp only [reduceCtorEq, false_iff]
    omega

/-- A SEQ_SET carries a stage record exactly where its two codes are assigned and its target is not 0 (R84). -/
theorem stageArg_eq_some {args : List Byte} {st : Stage} :
    stageArg args = some st ↔ argField args 1 1 = stageWindowCode st.window ∧ argField args 2 2 = st.target ∧ st.target ≠ 0 ∧
      argField args 4 4 = st.within ∧ argField args 8 1 = yesNo st.quiet := by
  simp only [← stageWindowOf_eq_some, ← yesNoOf_eq_some]
  unfold stageArg
  split
  next window quiet hw hq =>
    obtain ⟨w, t, e, q⟩ := st
    simp only [hw, hq, Option.some.injEq]
    split
    next hzero =>
      simp only [reduceCtorEq, false_iff]
      rintro ⟨-, rfl, hpos, -⟩
      exact hpos hzero
    next hpos =>
      simp only [Option.some.injEq, Stage.mk.injEq]
      constructor
      · rintro ⟨rfl, rfl, rfl, rfl⟩
        exact ⟨rfl, rfl, hpos, rfl, rfl⟩
      · rintro ⟨rfl, rfl, -, rfl, rfl⟩
        exact ⟨rfl, rfl, rfl, rfl⟩
  next hnot =>
    simp only [reduceCtorEq, false_iff]
    rintro ⟨hw, -, -, -, hq⟩
    exact hnot _ _ hw hq

/-- The fields of a SEQ_SET that its last check refuses (R84). -/
def stageArgBad (args : List Byte) : Prop :=
  15 < argField args 1 1 ∧ argField args 1 1 ≠ 255 ∨ argField args 2 2 = 0 ∨ 1 < argField args 8 1

/-- The stage record that a SEQ_SET with fields in range carries (R83, R84). -/
def stageOfArgs (args : List Byte) : Stage where
  window := if argField args 1 1 = 255 then none else some (BitVec.ofNat 4 (argField args 1 1))
  target := argField args 2 2
  within := argField args 4 4
  quiet := decide (argField args 8 1 = 1)

theorem stageArg_of_bad {args : List Byte} (h : stageArgBad args) : stageArg args = none := by
  refine Option.eq_none_iff_forall_ne_some.2 fun st hst => ?_
  obtain ⟨hw, ht, hpos, -, hq⟩ := stageArg_eq_some.1 hst
  have hwindow := stageWindowCode_range st.window
  have hquiet : yesNo st.quiet ≤ 1 := by cases st.quiet <;> decide
  unfold stageArgBad at h
  omega

theorem stageArg_of_good {args : List Byte} (h : ¬ stageArgBad args) : stageArg args = some (stageOfArgs args) := by
  unfold stageArgBad at h
  refine stageArg_eq_some.2 ⟨?_, rfl, ?_, rfl, ?_⟩
  · rw [← stageWindowOf_eq_some, stageWindowOf, stageOfArgs]
    split
    · rfl
    · exact if_pos (by omega)
  · simp only [stageOfArgs]
    omega
  · obtain hq | hq : argField args 8 1 = 0 ∨ argField args 8 1 = 1 := by omega
    · simp [stageOfArgs, yesNo, hq]
    · simp [stageOfArgs, yesNo, hq]

section
variable {args : List Byte} {s : State}

theorem runSeqLength_badArg (h : argField args 0 1 = 0 ∨ 8 < argField args 0 1) :
    runSeqLength args s = refuses .badArg s :=
  if_pos h

theorem runSeqLength_badState (h : ¬ (argField args 0 1 = 0 ∨ 8 < argField args 0 1)) (hs : s.session.state ≠ .idle) :
    runSeqLength args s = refuses .badState s := by
  rw [runSeqLength, if_neg h, if_pos hs]

theorem runSeqLength_done (h : ¬ (argField args 0 1 = 0 ∨ 8 < argField args 0 1)) (hs : s.session.state = .idle) :
    runSeqLength args s = done { s with seqr := { s.seqr with length := argField args 0 1 } } := by
  rw [runSeqLength, if_neg h, if_neg (not_not.2 hs)]

theorem runSeqSet_index (h : 7 < argField args 0 1) : runSeqSet args s = refuses .badArg s := if_pos h

theorem runSeqSet_badState (h : argField args 0 1 ≤ 7) (hs : s.session.state ≠ .idle) :
    runSeqSet args s = refuses .badState s := by
  rw [runSeqSet, if_neg (Nat.not_lt.2 h), if_pos hs]

theorem runSeqSet_fields (h : argField args 0 1 ≤ 7) (hs : s.session.state = .idle) (hbad : stageArgBad args) :
    runSeqSet args s = refuses .badArg s := by
  rw [runSeqSet, if_neg (Nat.not_lt.2 h), if_neg (not_not.2 hs), stageArg_of_bad hbad]

theorem runSeqSet_done (h : argField args 0 1 ≤ 7) (hs : s.session.state = .idle) (hgood : ¬ stageArgBad args) :
    runSeqSet args s = done { s with seqr := { s.seqr with
      stages := s.seqr.stages.setIfInBounds (argField args 0 1) (stageOfArgs args) } } := by
  rw [runSeqSet, if_neg (Nat.not_lt.2 h), if_neg (not_not.2 hs), stageArg_of_good hgood]

end

/-- Settles O39: the checks are `runSeqLength`'s and `runSeqSet`'s in their order, the last of SEQ_SET that of its fields. -/
theorem sequenceProgramming : Obligations.SequenceProgramming := by
  rintro f i s h rfl
  refine ⟨fun hf => congrArg Host.Outcome.next ?_,
    fun hf hi => congrArg _ (portFrame_refuses h hf (runSeqSet_index hi)),
    fun hf hi hs => congrArg _ (portFrame_refuses h hf (runSeqSet_badState hi hs)),
    fun hf hi hs hbad => congrArg _ (portFrame_refuses h hf (runSeqSet_fields hi hs hbad)),
    fun hf hi hs hwindow htarget hquiet => congrArg _ (portFrame_done h hf (runSeqSet_done hi hs ?_))⟩
  · split
    next hn => exact portFrame_refuses h hf (runSeqLength_badArg hn)
    next hn =>
      split
      next hs => exact portFrame_refuses h hf (runSeqLength_badState hn hs)
      next hs => exact portFrame_done h hf (runSeqLength_done hn (not_not.1 hs))
  · unfold stageArgBad
    omega

end Sys2Proof.Machine
end

section
/-! The rollback engine: its run of visits, the restore's response, and the two commands that start and abort a rollback (R100
to R103, R108 to R111). -/

namespace Sys2Proof.Machine

/-! ### Visits -/

section
variable {n : Nat} {s : State}

theorem undoable_eq_some {r : Rec} {w : WriteInfo} :
    r.undoable = some w ↔ r.body = .write w .ok false ∧ ∃ old, w.oldData = some old := by
  unfold Rec.undoable
  split
  next info hbody =>
    simp only [hbody, RecBody.write.injEq, and_true, ← Option.isSome_iff_exists]
    by_cases hold : info.oldData.isSome = true
    · rw [if_pos hold]
      exact ⟨fun h => Option.some.inj h ▸ ⟨rfl, hold⟩, fun h => congrArg some h.1⟩
    · rw [if_neg hold]
      exact ⟨nofun, fun h => absurd (h.1 ▸ h.2) hold⟩
  next hno => exact ⟨nofun, fun h => absurd h.1 (hno w)⟩

/-- The line of a record that can be undone is claimed (R102, R104). -/
theorem visit_undoable {w : WriteInfo} (h : (s.ring.find s.rollback.cursor).bind Rec.undoable = some w) :
    visit n s = claimLine (lineOf w.addr) s := by
  unfold visit
  rw [h]

/-- The last record of the run is skipped, and the rollback ends (R102, R103). -/
theorem visit_zero_skip (h : (s.ring.find s.rollback.cursor).bind Rec.undoable = none) :
    visit 0 s = endRollback .done { s with rollback := { s.rollback with skipped := s.rollback.skipped + 1 } } := by
  unfold visit
  rw [h]

/-- A record is skipped, and the next older one is visited (R102, R103). -/
theorem visit_succ_skip (h : (s.ring.find s.rollback.cursor).bind Rec.undoable = none) :
    visit (n + 1) s = visit n
      { s with rollback := { s.rollback with cursor := s.rollback.cursor - 1, skipped := s.rollback.skipped + 1 } } := by
  rw [visit, h]

/-- The first `m` records of a run that cannot be undone are skipped and counted (R102). -/
theorem visit_skips (m : Nat) (h : ∀ k < m, (s.ring.find (s.rollback.cursor - k)).bind Rec.undoable = none) :
    visit (n + m) s = visit n
      { s with rollback := { s.rollback with cursor := s.rollback.cursor - m, skipped := s.rollback.skipped + m } } := by
  induction m generalizing n with
  | zero => rfl
  | succ m ih =>
    rw [← Nat.add_assoc, Nat.add_right_comm, ih fun k hk => h k (by omega), visit_succ_skip (h m (by omega))]
    rfl

theorem advance_ends (h : s.rollback.cursor ≤ s.rollback.first) : advance s = endRollback .done s := if_pos h

theorem advance_visits (h : s.rollback.first < s.rollback.cursor) :
    advance s = visit (s.rollback.cursor - 1 - s.rollback.first)
      { s with rollback := { s.rollback with cursor := s.rollback.cursor - 1 } } := if_neg (Nat.not_le.2 h)

end

/-- Settles O45: the skips before the first record that can be undone, or all of the run, are `visit_skips`. -/
theorem visitsSkipToUndoable : Obligations.VisitsSkipToUndoable := by
  refine ⟨fun r w => undoable_eq_some, fun s => ⟨fun h => advance_ends h.le, advance_visits⟩,
    fun n s _ => ⟨fun m hm w hskip hw => ?_, fun hskip => ?_⟩⟩
  · obtain ⟨older, rfl⟩ := Nat.exists_eq_add_of_le' hm
    rw [visit_skips m hskip]
    exact visit_undoable hw
  · have hrun := visit_skips (n := 0) n fun k hk => hskip k hk.le
    rw [Nat.zero_add] at hrun
    rw [hrun, visit_zero_skip (hskip n le_rfl)]
    rfl

/-! ### The restore's response -/

section
variable {a : Addr} {s : State}

/-- A response to a restore goes to the engine, and the arbiter looks last (R108, R146). -/
theorem exec_restoreResponse {o : Outstanding} (h : s.answering o 72) (hk : o.req.kind = .write) (st : MemStatus) :
    exec (.restoreResponse st) s = .next (settle (restoreResponded o.req.addr st (closeTag 72 s))) := by
  show Host.Outcome.next (routeResponse 72 st [] s) = _
  rw [routeResponse_answering h, responseFree_exact s (by simp [hk]), ownerResponded_rollback (answering_tag h), hk]

theorem restoreResponded_ok (h : s.rollback.state = .restoring) :
    restoreResponded a .ok s = advance (markRestored s) := by simp only [restoreResponded, h]

theorem restoreResponded_fault (h : s.rollback.state = .restoring) :
    restoreResponded a .fault s = rollbackFault a (endRollback .fault s) := by simp only [restoreResponded, h]

theorem rollbackFault_eq (a : Addr) (s : State) : rollbackFault a s = { s with events := { s.events with
    fault := offered s.events.fault .rollbackFault .memory 72 (some a) s.time.counter } } := offerFault_eq ..

/-- The pending result of an ABORTING engine becomes its result (R111). -/
theorem endAborting_eq {p : RbPending} (h : s.rollback.pendingResult = some p) :
    endAborting s = endRollback p.result s := by rw [endAborting, h]; rfl

theorem restoreResponded_aborting_ok {p : RbPending} (h : s.rollback.state = .aborting)
    (hp : s.rollback.pendingResult = some p) : restoreResponded a .ok s = endRollback p.result (markRestored s) := by
  simp only [restoreResponded, h]
  exact endAborting_eq hp

theorem restoreResponded_aborting_fault {p : RbPending} (h : s.rollback.state = .aborting)
    (hp : s.rollback.pendingResult = some p) : restoreResponded a .fault s = endRollback p.result (rollbackFault a s) := by
  have hpend : (rollbackFault a s).rollback.pendingResult = some p := by rw [rollbackFault_eq]; exact hp
  simp only [restoreResponded, h]
  exact endAborting_eq hpend

end

/-- Settles O26: the engine's answer by its state and the response's status. -/
theorem restoreAnswered : Obligations.RestoreAnswered := by
  refine ⟨fun _ _ _ _ _ _ _ => ⟨rfl, rfl, rfl, rfl⟩, ?_⟩
  rintro o s s' hans hk - rfl
  refine ⟨fun hs => ?_, fun hs => ?_, fun p hs hp => ⟨?_, ?_⟩⟩
  · rw [exec_restoreResponse hans hk, restoreResponded_ok (s := closeTag 72 s) hs]
    rfl
  · rw [exec_restoreResponse hans hk, restoreResponded_fault (s := closeTag 72 s) hs, rollbackFault_eq]
    rfl
  · rw [exec_restoreResponse hans hk, restoreResponded_aborting_ok (s := closeTag 72 s) hs hp]
    cases p <;> rfl
  · rw [exec_restoreResponse hans hk, restoreResponded_aborting_fault (s := closeTag 72 s) hs hp, rollbackFault_eq]
    cases p <;> rfl

/-! ### ROLLBACK_START -/

theorem rbModeOf_eq_none {n : Nat} : rbModeOf n = none ↔ 2 < n := by
  match n with
  | 0 | 1 | 2 => simp [rbModeOf]
  | n + 3 => simp [rbModeOf]

theorem rbModeOf_eq_some {n : Nat} {mode : RbMode} (h : mode = .force ∧ n = 0 ∨ mode = .checkSkip ∧ n = 1 ∨
    mode = .checkStop ∧ n = 2) : rbModeOf n = some mode := by
  rcases h with ⟨rfl, rfl⟩ | ⟨rfl, rfl⟩ | ⟨rfl, rfl⟩ <;> rfl

section
variable {args : List Byte} {mode : RbMode} {s : State}

theorem runRollbackStart_mode (h : 2 < argField args 8 1) : runRollbackStart args s = refuses .badArg s := by
  rw [runRollbackStart, rbModeOf_eq_none.2 h]

theorem runRollbackStart_order (h : argField args 4 4 < argField args 0 4) :
    runRollbackStart args s = refuses .badArg s := by
  unfold runRollbackStart
  cases rbModeOf (argField args 8 1) with
  | none => rfl
  | some mode => exact if_pos h

/-- Past check 1 a start depends on the states and on the ring (R100). -/
theorem runRollbackStart_args (hm : rbModeOf (argField args 8 1) = some mode)
    (hle : argField args 0 4 ≤ argField args 4 4) :
    runRollbackStart args s =
      if s.session.state ≠ .stopped ∧ s.session.state ≠ .captured then refuses .badState s
      else if s.rollback.state ≠ .idle ∨ s.drain.state = .stopping ∨ s.drain.state = .faulting then refuses .busy s
      else if (∀ r ∈ s.ring.recs, r.seq ≠ argField args 0 4) ∨ (∀ r ∈ s.ring.recs, r.seq ≠ argField args 4 4) then
        refuses .notFound s
      else done (startRollback mode (argField args 0 4) (argField args 4 4) s) := by
  simp only [runRollbackStart, hm, if_neg (Nat.not_lt.2 hle), find_isNone_iff]

theorem runRollbackStart_badState (hm : rbModeOf (argField args 8 1) = some mode)
    (hle : argField args 0 4 ≤ argField args 4 4) (hs : s.session.state ≠ .stopped) (hc : s.session.state ≠ .captured) :
    runRollbackStart args s = refuses .badState s := by
  rw [runRollbackStart_args hm hle, if_pos ⟨hs, hc⟩]

theorem runRollbackStart_busy (hm : rbModeOf (argField args 8 1) = some mode)
    (hle : argField args 0 4 ≤ argField args 4 4) (hs : s.session.state = .stopped ∨ s.session.state = .captured)
    (hbusy : s.rollback.state ≠ .idle ∨ s.drain.state = .stopping ∨ s.drain.state = .faulting) :
    runRollbackStart args s = refuses .busy s := by
  rw [runRollbackStart_args hm hle, if_neg fun h => hs.elim h.1 h.2, if_pos hbusy]

theorem runRollbackStart_notFound (hm : rbModeOf (argField args 8 1) = some mode)
    (hle : argField args 0 4 ≤ argField args 4 4) (hs : s.session.state = .stopped ∨ s.session.state = .captured)
    (hfree : ¬ (s.rollback.state ≠ .idle ∨ s.drain.state = .stopping ∨ s.drain.state = .faulting))
    (hnone : (∀ r ∈ s.ring.recs, r.seq ≠ argField args 0 4) ∨ (∀ r ∈ s.ring.recs, r.seq ≠ argField args 4 4)) :
    runRollbackStart args s = refuses .notFound s := by
  rw [runRollbackStart_args hm hle, if_neg fun h => hs.elim h.1 h.2, if_neg hfree, if_pos hnone]

theorem runRollbackStart_done (hm : rbModeOf (argField args 8 1) = some mode)
    (hle : argField args 0 4 ≤ argField args 4 4) (hs : s.session.state = .stopped ∨ s.session.state = .captured)
    (hfree : ¬ (s.rollback.state ≠ .idle ∨ s.drain.state = .stopping ∨ s.drain.state = .faulting))
    (hfirst : ∃ r ∈ s.ring.recs, r.seq = argField args 0 4) (hlast : ∃ r ∈ s.ring.recs, r.seq = argField args 4 4) :
    runRollbackStart args s = done (startRollback mode (argField args 0 4) (argField args 4 4) s) := by
  have hfound : ¬ ((∀ r ∈ s.ring.recs, r.seq ≠ argField args 0 4) ∨ (∀ r ∈ s.ring.recs, r.seq ≠ argField args 4 4)) := by
    push Not
    exact ⟨hfirst, hlast⟩
  rw [runRollbackStart_args hm hle, if_neg fun h => hs.elim h.1 h.2, if_neg hfree, if_neg hfound]

end

/-- Settles O44: the checks are `runRollbackStart`'s in their order, and the accepted command is `startRollback`. -/
theorem rollbackStart : Obligations.RollbackStart := by
  rintro f first last s h hf rfl rfl
  refine ⟨fun hbad => congrArg _ (portFrame_refuses h hf (hbad.elim runRollbackStart_mode runRollbackStart_order)),
    fun mode hmode hle => ?_⟩
  have hm := rbModeOf_eq_some hmode
  refine ⟨fun hs hc => congrArg _ (portFrame_refuses h hf (runRollbackStart_badState hm hle hs hc)),
    fun hs => ⟨fun hbusy => congrArg _ (portFrame_refuses h hf (runRollbackStart_busy hm hle hs hbusy)),
      fun hrb hst hft => ?_⟩⟩
  have hfree : ¬ (s.rollback.state ≠ .idle ∨ s.drain.state = .stopping ∨ s.drain.state = .faulting) := by
    simp [hrb, hst, hft]
  exact ⟨fun hnone => congrArg _ (portFrame_refuses h hf (runRollbackStart_notFound hm hle hs hfree hnone)),
    fun hfirst hlast => congrArg _ (portFrame_done h hf (runRollbackStart_done hm hle hs hfree hfirst hlast))⟩

/-! ### ROLLBACK_ABORT -/

section
variable {f : Frame} {s : State}

/-- A second abort of an ABORTING engine changes nothing (R110). -/
theorem endEarly_aborted_again (h : s.rollback.state = .aborting) : endEarly .aborted s = s := by
  simp only [endEarly, h]

theorem exec_rollbackAbort_idle (h : s.resetHeld = false) (hs : s.rollback.state = .idle) :
    exec (.rollbackAbort f) s = .next (answered .badState [] (framed f s)) :=
  congrArg _ (portFrame_refuses h (Nat.zero_le _) (if_pos hs))

theorem exec_rollbackAbort (h : s.resetHeld = false) (hs : s.rollback.state ≠ .idle) :
    exec (.rollbackAbort f) s = .next (answered .ok [] (settle (endEarly .aborted (framed f s)))) :=
  congrArg _ (portFrame_done h (Nat.zero_le _) (if_neg hs))

end

/-- Settles O47: what a withdrawal leaves, then the early end by the engine's phase. -/
theorem rollbackAbort : Obligations.RollbackAbort := by
  refine ⟨fun s => ⟨fun i _ => withdrawClaim_free, fun i line owner parked _ => withdrawClaim_owned,
    withdrawn_arbiter s, rfl⟩, fun f s h => ⟨exec_rollbackAbort_idle h, fun hs => ?_, fun i line parked hs hi he hlow => ?_,
    fun hs => ?_, fun hs => ?_⟩⟩
  · rw [exec_rollbackAbort h (by simp [hs]), endEarly_claiming (s := framed f s) .aborted hs]
    rfl
  · rw [exec_rollbackAbort h (by simp [hs]), endEarly_checking (s := framed f s) .aborted hs,
      releaseChecking_lowest (s := { framed f s with rollback := _ }) hi he hlow]
    rfl
  · rw [exec_rollbackAbort h (by simp [hs]), endEarly_restoring (s := framed f s) .aborted hs]
    rfl
  · rw [exec_rollbackAbort h (by simp [hs]), endEarly_aborted_again (s := framed f s) hs]

end Sys2Proof.Machine
end

section
/-! The indices of the spill area: what placement, responses, retirement, the stops and the grants do to a lawful drain. -/

namespace Sys2Proof.Machine

/-! ### The law as a property of the drain -/

/-- What the spill law says of the drain engine, the indices of a configured area as one balance (R117, R124, R129). -/
structure Drain.Lawful (d : Drain) : Prop where
  unset : d.size = 0 → d.p = 0 ∧ d.c = 0 ∧ d.u = 0 ∧ d.q = 0 ∧ d.inFlight = []
  range : d.size ≠ 0 → 64 ≤ d.size ∧ d.size ≤ 262144 ∧ d.c < d.size
  balanced : d.size ≠ 0 → d.Balanced
  faulted : d.state = .faulted → d.inFlight = []

theorem spillLaw_iff {s : State} : s.SpillLaw ↔ s.drain.Lawful := by
  constructor
  · rintro ⟨hunset, hset, hfaulted⟩
    refine ⟨hunset, fun hs => ?_, fun hs => ?_, hfaulted⟩ <;>
      obtain ⟨hmin, hmax, hp, hc, hq, hused, hflight, hroom⟩ := hset hs
    · exact ⟨hmin, hmax, hc⟩
    · exact ⟨hp, hq, hused, hflight, hroom⟩
  · rintro ⟨hunset, hrange, hbalanced, hfaulted⟩
    refine ⟨hunset, fun hs => ?_, hfaulted⟩
    obtain ⟨hmin, hmax, hc⟩ := hrange hs
    obtain ⟨hp, hq, hused, hflight, hroom⟩ := hbalanced hs
    exact ⟨hmin, hmax, hp, hc, hq, hused, hflight, hroom⟩

theorem reset_lawful : Drain.reset.Lawful :=
  ⟨fun _ => ⟨rfl, rfl, rfl, rfl, rfl⟩, fun hs => absurd rfl hs, fun hs => absurd rfl hs, fun _ => rfl⟩

namespace Drain.Lawful

variable {d : Drain} (h : d.Lawful)
include h

/-- The law does not read what is offered or how a stop goes on, and of the state only whether it is FAULTED. -/
theorem phase {state : DrainState} (offered : Option OfferedLine) (cause : Option StopCause) (ending : Option DrainEnd)
    (hfaulted : state = .faulted → d.inFlight = []) :
    Drain.Lawful { d with state := state, offered := offered, stopCause := cause, endState := ending } :=
  ⟨h.unset, h.range, fun hs => have b := h.balanced hs; ⟨b.p_lt, b.q_lt, b.used, b.flight, b.room⟩, hfaulted⟩

/-- An emptied drain is lawful in every state (R129, R131, R132). -/
theorem emptied (state : DrainState) (offered : Option OfferedLine) (cause : Option StopCause) (ending : Option DrainEnd) :
    Drain.Lawful
      { d.emptied with state := state, offered := offered, stopCause := cause, endState := ending } := by
  have hempty : d.emptied.Lawful := by
    refine ⟨fun hs => ?_, h.range, fun hs => emptied_balanced (h.balanced hs), fun _ => rfl⟩
    obtain ⟨hp, hc, hu, -, -⟩ := h.unset hs
    exact ⟨hp, hc, hu, hp, rfl⟩
  exact hempty.phase offered cause ending fun _ => rfl

/-- With nothing in flight the next line to place may be set to p (R130). -/
theorem restarted (hflight : d.inFlight = []) (state : DrainState) :
    Drain.Lawful { d with state := state, q := d.p } := by
  have hempty := h.emptied state d.offered d.stopCause d.endState
  unfold Drain.emptied at hempty
  rwa [← hflight] at hempty

/-- The consumer's index moves forward over lines in use (R126). -/
theorem consume {newc : Nat} (hnewc : newc < d.size) (hdist : d.consumeDistance newc ≤ d.u) :
    Drain.Lawful { d with c := newc, u := d.u - d.consumeDistance newc } := by
  have hsize : d.size ≠ 0 := by omega
  obtain ⟨hmin, hmax, hc⟩ := h.range hsize
  obtain ⟨hp, hq, hused, hflight, hroom⟩ := h.balanced hsize
  refine ⟨fun hs => absurd hs hsize, fun _ => ⟨hmin, hmax, hnewc⟩, fun _ => ⟨hp, hq, ?_, hflight, ?_⟩, h.faulted⟩
  · have hmoved : (d.c + d.consumeDistance newc) % d.size = newc := by
      rw [Drain.consumeDistance, Nat.add_mod_mod, show d.c + (newc + d.size - d.c) = newc + d.size by omega,
        Nat.add_mod_right, Nat.mod_eq_of_lt hnewc]
    calc (newc + (d.u - d.consumeDistance newc)) % d.size
        = (d.c + d.consumeDistance newc + (d.u - d.consumeDistance newc)) % d.size := by
          rw [← hmoved, Nat.mod_add_mod, hmoved]
      _ = (d.c + d.u) % d.size := by congr 1; omega
      _ = d.p := hused
  · show d.u - d.consumeDistance newc + d.flightLines ≤ d.size
    omega

end Drain.Lawful

/-- A new area has every index at 0 (R119). -/
theorem configured_lawful {size : Nat} (hmin : 64 ≤ size) (hmax : size ≤ 262144) {state : DrainState}
    (base : Addr) (mark : Nat) :
    Drain.Lawful { Drain.reset with state := state, base := base, size := size, watermark := mark } := by
  have hpos : 0 < size := by omega
  have hsize : size ≠ 0 := by omega
  refine ⟨fun hs => absurd hs hsize, fun _ => ⟨hmin, hmax, hpos⟩, fun _ => ⟨hpos, hpos, ?_, ?_, ?_⟩, fun _ => rfl⟩
  · exact Nat.zero_mod size
  · exact Nat.zero_mod size
  · exact Nat.zero_le size

/-! ### Placement and the grants -/

theorem lineCount_pos (r : Rec) : 0 < r.lineCount := by
  unfold Rec.lineCount
  repeat' split
  all_goals decide

@[simp] theorem place_state (d : Drain) (r : Rec) : (d.place r).state = d.state := by rw [place_same]

@[simp] theorem place_base (d : Drain) (r : Rec) : (d.place r).base = d.base := by rw [place_same]

@[simp] theorem place_size (d : Drain) (r : Rec) : (d.place r).size = d.size := by rw [place_same]

@[simp] theorem place_c (d : Drain) (r : Rec) : (d.place r).c = d.c := by rw [place_same]

/-- Without an area nothing is placed (R121). -/
theorem place_unset {d : Drain} (hs : d.size = 0) (r : Rec) : d.place r = d := by
  have hpos := lineCount_pos r
  have hfree : d.freeLines = 0 := by rw [Drain.freeLines, hs]; omega
  rw [Drain.place, if_neg (by omega), if_neg (by omega)]

theorem Drain.Lawful.place {d : Drain} (h : d.Lawful) (hrun : d.state = .running) (r : Rec) : (d.place r).Lawful := by
  by_cases hs : d.size = 0
  · rwa [place_unset hs]
  · exact ⟨fun h0 => absurd ((place_size d r).symm.trans h0) hs, fun _ => by simpa using h.range hs,
      fun _ => place_balanced (h.balanced hs) r, fun hf => by simp [hrun] at hf⟩

theorem drainPlaced_lawful {s : State} (h : s.drain.Lawful) (hrun : s.drain.state = .running) : s.drainPlaced.Lawful := by
  unfold State.drainPlaced
  split
  · exact h
  split
  · split
    · exact h
    · exact h.place hrun _
  · exact h

theorem offerNext_lawful {s : State} (h : s.drain.Lawful) : (offerNext s).drain.Lawful := by
  unfold offerNext
  split
  next hready =>
    have hplaced := drainPlaced_lawful h hready.1
    exact hplaced.phase _ _ _ hplaced.faulted
  · exact h

/-- A change of items that keeps their line counts keeps the law. -/
theorem mapItem_lawful {s : State} (h : s.drain.Lawful) (k : Nat) {g : DrainItem → DrainItem}
    (hg : ∀ x, (g x).lines = x.lines) : (mapItem k g s).drain.Lawful := by
  have hempty : s.drain.inFlight = [] → (mapItem k g s).drain.inFlight = [] := fun hf => by simp [mapItem, hf]
  refine ⟨fun hs => ?_, h.range, fun hs => ?_, fun hf => hempty (h.faulted hf)⟩
  · obtain ⟨hp, hc, hu, hq, hf⟩ := h.unset hs
    exact ⟨hp, hc, hu, hq, hempty hf⟩
  · obtain ⟨hp, hq, hused, hflight, hroom⟩ := h.balanced hs
    have hlines := mapItem_flightLines k g hg s
    exact ⟨hp, hq, hused, by rw [hlines]; exact hflight, by rw [hlines]; exact hroom⟩

@[simp] theorem grantPath_drain (s : State) : (grantPath s).drain = s.drain := by unfold grantPath; split <;> rfl

theorem grantDrain_lawful {s : State} (h : s.drain.Lawful) : (grantDrain s).drain.Lawful := by
  unfold grantDrain
  split
  · refine offerNext_lawful (mapItem_lawful (s := issue _ _ _ { s with drain := { s.drain with offered := none } }) ?_ _
      fun _ => rfl)
    exact h.phase none _ _ h.faulted
  · exact h

theorem grants_lawful : ∀ (n : Nat) {s : State}, s.drain.Lawful → (grants n s).drain.Lawful
  | 0, _, h => h
  | n + 1, s, h => by
    unfold grants
    split
    · exact h
    · exact grants_lawful n (by rwa [grantPath_drain])
    · exact grants_lawful n (grantDrain_lawful h)

theorem settle_lawful {s : State} (h : s.drain.Lawful) : (settle s).drain.Lawful := grants_lawful _ (offerNext_lawful h)

/-! ### Stops -/

/-- What the work of a session does to a drain: nothing, or the stop of a RUNNING one (R131). -/
inductive Drain.StopsTo (d : Drain) : Drain → Prop where
  | same : d.StopsTo d
  | quiet : d.state = .running → d.StopsTo { d.emptied with state := .ready }
  | waiting : d.state = .running →
      d.StopsTo { d with state := .stopping, offered := none, stopCause := some .session, endState := some .ready }

theorem Drain.StopsTo.of_eq {d e : Drain} (h : e = d) : d.StopsTo e := h ▸ .same

/-- A drain that has stopped does not stop again. -/
theorem Drain.StopsTo.trans {d e f : Drain} (h : d.StopsTo e) (k : e.StopsTo f) : d.StopsTo f := by
  cases h with
  | same => exact k
  | quiet hrun =>
    cases k with
    | same => exact .quiet hrun
    | quiet hstate | waiting hstate => cases hstate
  | waiting hrun =>
    cases k with
    | same => exact .waiting hrun
    | quiet hstate | waiting hstate => cases hstate

theorem Drain.Lawful.stopsTo {d e : Drain} (h : d.Lawful) (k : d.StopsTo e) : e.Lawful := by
  cases k with
  | same => exact h
  | quiet => exact h.emptied .ready none none none
  | waiting => exact h.phase _ _ _ (by simp)

section
variable (s : State)

theorem drainStop_stopsTo : s.drain.StopsTo (drainStop s).drain := by
  unfold drainStop
  split
  next hrun =>
    split
    · exact .quiet hrun
    · exact .waiting hrun
  · exact .same

theorem stopSession_stopsTo (r : StopReason) : s.drain.StopsTo (stopSession r s).drain := by
  rw [stopSession_drain]
  exact drainStop_stopsTo s

theorem exhaust_stopsTo : s.drain.StopsTo (exhaust s).drain := stopSession_stopsTo (raise .seqExhausted s) .exhausted

/-! ### Records -/

theorem appendRec_stopsTo (discard : Bool) (body : RecBody) (time : Time) :
    s.drain.StopsTo (appendRec discard body time s).drain := by
  have hpush : s.drain.StopsTo (pushRec discard body time s).drain := .of_eq (pushRec_drain discard body time s)
  unfold appendRec
  split
  · exact hpush.trans (exhaust_stopsTo _)
  · exact hpush

theorem appendGap_stopsTo (n : Nat) : s.drain.StopsTo (appendGap n s).drain :=
  appendRec_stopsTo { s with ring := { s.ring with gap := 0 } } ..

theorem appendSkip_stopsTo (body : RecBody) (time : Time) : s.drain.StopsTo (appendSkip body time s).drain := by
  unfold appendSkip
  split
  · exact .same
  split
  · exact appendRec_stopsTo ..
  split
  · exact appendGap_stopsTo ..
  dsimp only
  split
  · exact (appendGap_stopsTo ..).trans (appendRec_stopsTo ..)
  · exact appendGap_stopsTo ..

theorem appendHold_stopsTo (d : Draft) : s.drain.StopsTo (appendHold d s).1.drain := by
  unfold appendHold
  split
  · exact .same
  split
  · exact appendRec_stopsTo ..
  dsimp only
  split
  · split
    · exact appendGap_stopsTo ..
    · exact (appendGap_stopsTo ..).trans (appendRec_stopsTo ..)
  · exact appendGap_stopsTo ..

theorem serveSlot_stopsTo (i : Nat) (w : HeldWrite) (d : Draft) (rest : List Nat) :
    s.drain.StopsTo (serveSlot i w d rest s).drain :=
  (appendRec_stopsTo { s with ring := { s.ring with slotList := rest } } false d.body d.time).trans
    (.of_eq (finishAhead_holdWork i w _).drain)

theorem serveList_stopsTo : ∀ (l : List Nat) (s : State), s.drain.StopsTo (serveList l s).drain
  | [], _ => .same
  | i :: rest, s => by
    unfold serveList
    split
    · split
      · split
        · exact (serveSlot_stopsTo ..).trans (serveList_stopsTo rest _)
        · dsimp only
          split
          · exact ((appendGap_stopsTo ..).trans (serveSlot_stopsTo ..)).trans (serveList_stopsTo rest _)
          · exact appendGap_stopsTo ..
      all_goals exact .same
    · exact .same

theorem serveSlots_stopsTo : s.drain.StopsTo (serveSlots s).drain := serveList_stopsTo ..

theorem appendArmed_stopsTo (body : RecBody) (time : Time) : s.drain.StopsTo (appendArmed body time s).drain := by
  unfold appendArmed
  split
  · exact .same
  · exact appendRec_stopsTo ..

theorem appendFired_stopsTo (body : RecBody) (time : Time) : s.drain.StopsTo (appendFired body time s).drain := by
  have hpush : s.drain.StopsTo (pushRec false body time s).drain := .of_eq (pushRec_drain false body time s)
  unfold appendFired
  dsimp only
  split
  · exact hpush.trans (exhaust_stopsTo { pushRec false body time s with
      session := { (pushRec false body time s).session with post := (pushRec false body time s).session.post + 1 } })
  · split <;> exact hpush

theorem appendRefused_stopsTo (info : WriteInfo) : s.drain.StopsTo (appendRefused info s).drain := by
  unfold appendRefused
  split
  · exact appendSkip_stopsTo ..
  · exact appendArmed_stopsTo ..
  · exact appendFired_stopsTo ..
  all_goals exact .same

theorem appendWrite_stopsTo (d : Draft) : s.drain.StopsTo (appendWrite d s).1.drain := by
  unfold appendWrite
  split
  · split
    · exact appendHold_stopsTo ..
    · exact appendSkip_stopsTo ..
  · exact appendArmed_stopsTo ..
  · exact appendFired_stopsTo ..
  all_goals exact .same

/-! ### The fire, the count and the resolution -/

theorem fire_stopsTo (c : Cause) : s.drain.StopsTo (fire c s).drain := by
  have hmarked : s.drain.StopsTo (fireMarked c s).drain := .of_eq rfl
  rw [fire_eq]
  split
  · split
    · exact hmarked
    · exact hmarked.trans (exhaust_stopsTo _)
  · exact hmarked

theorem takeCount_stopsTo : s.drain.StopsTo (takeCount s).drain := by
  unfold takeCount
  split
  · exact .same
  split
  · exact .same
  · exact fire_stopsTo { s with seqr := { s.seqr with count := s.seqr.count + 1 } } _

theorem countStep_stopsTo (b : Bool) : s.drain.StopsTo (countStep b s).drain := by
  unfold countStep
  split
  · exact takeCount_stopsTo s
  · exact .same

theorem finishAhead_drain (i : Nat) (w : HeldWrite) : (finishAhead i w s).drain = s.drain :=
  (finishAhead_holdWork i w s).drain

theorem resolveRefused_stopsTo (i : Nat) (w : HeldWrite) (old : Option (List Byte)) (hits : Set16) :
    s.drain.StopsTo (resolveRefused i w old hits s).drain := by
  have hrecord : s.drain.StopsTo (refusalRecord (recordInfo w hits old) hits s).drain := by
    unfold refusalRecord
    split
    · exact appendRefused_stopsTo (raise .refusal s) _
    · exact .same
  have hcount := hrecord.trans (countStep_stopsTo _ (s.counts hits))
  exact hcount.trans (.of_eq (release_holdWork i (respond w.req.tag .refused [] _)).drain)

theorem resolveAhead_stopsTo (i : Nat) (a : Addr) (w : HeldWrite) (old : Option (List Byte)) (l : List Parked)
    (hits : Set16) : s.drain.StopsTo (resolveAhead i a w old l hits s).drain := by
  unfold resolveAhead
  dsimp only
  split
  · have happend := appendWrite_stopsTo s { time := s.time.counter, info := recordInfo w (s.recordSet hits) old }
    split
    next t ht =>
      rw [ht] at happend
      exact happend
    next t ht =>
      rw [ht] at happend
      rw [finishAhead_drain]
      exact happend.trans (countStep_stopsTo ..)
  · rw [finishAhead_drain]
    exact countStep_stopsTo ..

theorem resolve_stopsTo (i : Nat) (a : Addr) (w : HeldWrite) (old : Option (List Byte)) (l : List Parked) :
    s.drain.StopsTo (resolve i a w old l s).drain := by
  unfold resolve
  dsimp only
  split
  · exact resolveRefused_stopsTo ..
  · exact resolveAhead_stopsTo ..

end

end Sys2Proof.Machine
end

section
/-! The spill law at every step: responses, the commands of the port, and every command. -/

namespace Sys2Proof.Machine

section
variable {s : State}

/-! ### Retirement and the drain's responses -/

/-- Retired lines move from the in-flight list into u (R124). -/
theorem retire_lawful (h : s.drain.Lawful) : (retire s.drain.inFlight s).drain.Lawful := by
  by_cases hflight : s.drain.inFlight = []
  · rwa [hflight]
  · obtain ⟨k, items, rest, -, hretire, -⟩ := retire_does s.drain.inFlight s rfl
    have hd := congrArg State.drain hretire
    have hsize : (retire s.drain.inFlight s).drain.size = s.drain.size := by rw [hd]
    have hc : (retire s.drain.inFlight s).drain.c = s.drain.c := by rw [hd]
    have hstate : (retire s.drain.inFlight s).drain.state = s.drain.state := by rw [hd]
    have hset : s.drain.size ≠ 0 := fun hs => by
      obtain ⟨-, -, -, -, hempty⟩ := h.unset hs
      exact hflight hempty
    exact ⟨fun hs => absurd (hsize.symm.trans hs) hset, fun _ => by rw [hsize, hc]; exact h.range hset,
      fun _ => retire_balanced (h.balanced hset), fun hf => absurd (h.faulted (hstate.symm.trans hf)) hflight⟩

theorem retireAll_lawful (h : s.drain.Lawful) : (retireAll s).drain.Lawful := by
  have hretire := retire_lawful h
  refine Drain.Lawful.stopsTo ?_ (serveSlots_stopsTo _)
  unfold raiseIf
  split <;> exact hretire

theorem drainQuiesce_lawful (h : s.drain.Lawful) : (drainQuiesce s).drain.Lawful := by
  unfold drainQuiesce
  split
  · split
    · split
      · exact reset_lawful
      · exact h.emptied .ready none none none
    · exact h.emptied .faulted none none none
    all_goals exact h
  · exact h

@[simp] theorem offerFault_drain (k : FaultKind) (p : FaultPort) (t : MemTag) (a : Option Addr) (s : State) :
    (offerFault k p t a s).drain = s.drain := by rw [offerFault_eq]

theorem drainResponded_lawful (h : s.drain.Lawful) (o : Outstanding) (st : MemStatus) :
    (drainResponded o st s).drain.Lawful := by
  unfold drainResponded
  split
  · split
    · exact drainQuiesce_lawful h
    · exact drainQuiesce_lawful (retireAll_lawful (mapItem_lawful h _ fun _ => rfl))
  · have hfault : (offerFault .drainFault .memory o.req.tag (some o.req.addr) (raise .drainFault s)).drain.Lawful := by
      rwa [offerFault_drain]
    dsimp only
    split
    · exact drainQuiesce_lawful hfault
    · refine drainQuiesce_lawful ?_
      exact (mapItem_lawful hfault _ (g := fun it => { it with faulted := true }) fun _ => rfl).phase none none none (by simp)

/-! ### Responses -/

theorem setOutcome_drain (tag : HostTag) (o : RecOutcome) (s : State) : (setOutcome tag o s).drain = s.drain := by
  unfold setOutcome
  split <;> rfl

theorem hostResponded_drain (m : MemReq) (st : MemStatus) (data : List Byte) (s : State) :
    (hostResponded m st data s).drain = s.drain := by
  unfold hostResponded
  split
  · split <;> rfl
  · exact setOutcome_drain ..

theorem prereadResponded_stopsTo (i : Nat) (st : MemStatus) (data : List Byte) (s : State) :
    s.drain.StopsTo (prereadResponded i st data s).drain := by
  unfold prereadResponded
  split
  · split
    · exact resolve_stopsTo ..
    · exact Drain.StopsTo.trans (.of_eq (offerFault_drain .prereadFault .memory _ _ (raise .prereadFault s)))
        (resolve_stopsTo ..)
  all_goals exact .same

theorem ownerResponded_lawful (h : s.drain.Lawful) (o : Outstanding) (st : MemStatus) (data : List Byte) :
    (ownerResponded o st data s).drain.Lawful := by
  unfold ownerResponded
  split
  · rwa [hostResponded_drain]
  split
  · exact h.stopsTo (prereadResponded_stopsTo ..)
  split
  · split
    · rwa [(checkResponded_rbWork ..).drain]
    · rwa [(restoreResponded_rbWork ..).drain]
  · exact drainResponded_lawful h ..

@[simp] theorem useFree_drain (n : Nat) (data : List Byte) (s : State) : (useFree n data s).drain = s.drain := by
  unfold useFree
  split <;> rfl

@[simp] theorem responseFree_drain (m : MemReq) (st : MemStatus) (data : List Byte) (s : State) :
    (responseFree m st data s).drain = s.drain := by
  unfold responseFree
  split
  · exact useFree_drain ..
  all_goals rfl

theorem routeResponse_lawful (h : s.drain.Lawful) (tag : MemTag) (st : MemStatus) (data : List Byte) :
    (routeResponse tag st data s).drain.Lawful := by
  unfold routeResponse
  split
  · exact h
  split
  · unfold stray
    rwa [offerFault_drain]
  · refine settle_lawful (ownerResponded_lawful ?_ ..)
    rwa [closeTag_drain, responseFree_drain]

/-! ### Requests -/

@[simp] theorem violation_drain (r : HostReq) (s : State) : (violation r s).drain = s.drain := offerFault_drain ..

@[simp] theorem arrive_drain (r : HostReq) (s : State) : (arrive r s).drain = s.drain := by
  unfold arrive
  split
  · exact violation_drain ..
  split
  · exact violation_drain ..
  · rfl

@[simp] theorem classifyHead_drain (r : HostReq) (s : State) : (classifyHead r s).drain = s.drain := by
  unfold classifyHead
  split
  · exact violation_drain ..
  split
  · exact (park_holdWork ..).drain
  split
  · rfl
  split
  next i hfree => exact (takeEntry_holdWork i _ _ (freeEntry_eq_some hfree).1).drain
  · rfl

@[simp] theorem seqTick_drain (s : State) : (seqTick s).drain = s.drain := by
  unfold seqTick
  repeat' split
  all_goals rfl

@[simp] theorem tickAll_drain (s : State) : (tickAll s).drain = s.drain := by
  unfold tickAll
  split
  · rfl
  · exact seqTick_drain _

/-! ### Clears -/

theorem drainClearing_lawful (h : s.drain.Lawful) (e : DrainEnd) : (drainClearing e s).drain.Lawful :=
  h.emptied .stopping none (some .clear) (some e)

theorem drainClearWorking_lawful (h : s.drain.Lawful) (e : DrainEnd) : (drainClearWorking e s).drain.Lawful := by
  unfold drainClearWorking
  split
  · exact h.emptied .ready none none none
  · exact drainClearing_lawful h e

/-- CLEAR SESSION keeps p, c and u, and empties the in-flight list of a drain at work (R132). -/
theorem drainClearSession_lawful (h : s.drain.Lawful) : (drainClearSession s).drain.Lawful := by
  unfold drainClearSession
  split
  · exact h
  · exact h
  · exact h.emptied .ready none none none
  · exact drainClearWorking_lawful h _
  · exact drainClearWorking_lawful h _
  · split
    · exact drainClearing_lawful h _
    · exact drainClearWorking_lawful h _

theorem drainClearAll_lawful (h : s.drain.Lawful) : (drainClearAll s).drain.Lawful := by
  unfold drainClearAll
  split
  · exact reset_lawful
  · exact drainClearing_lawful h _

theorem clearSessionWork_lawful {dc : State → State} (hd : ∀ {t : State}, t.drain.Lawful → (dc t).drain.Lawful)
    (h : s.drain.Lawful) : (clearSessionWork dc s).drain.Lawful := by
  obtain ⟨t, ht, hwork⟩ := clearSessionWork_does dc s
  rw [ht]
  refine hd ?_
  rw [(endEarly_rbWork ..).drain, hwork.drain]
  exact h

theorem clearScope_lawful (scope : ClearScope) (h : s.drain.Lawful) : (clearScope scope s).drain.Lawful := by
  cases scope with
  | session => exact settle_lawful (clearSessionWork_lawful drainClearSession_lawful h)
  | windows | events => exact h
  | all => exact settle_lawful (clearSessionWork_lawful drainClearAll_lawful h)

theorem runClear_lawful (h : s.drain.Lawful) (args : List Byte) : (runClear args s).state.drain.Lawful := by
  unfold runClear
  split
  · exact clearScope_lawful _ h
  · exact h

/-! ### Commands of the session, the ring, the rollback engine and the drain -/

theorem toBypass_lawful (h : s.drain.Lawful) : (toBypass s).drain.Lawful := by
  refine settle_lawful ?_
  rw [(releaseSlots_does true s.ring.slotList { s with engaged := false }).drain]
  exact h

theorem startSession_lawful (h : s.drain.Lawful) (a : StartArgs) : (startSession a s).drain.Lawful := by
  unfold startSession
  split
  · refine settle_lawful (h.phase _ _ _ fun hf => h.faulted ?_)
    split at hf
    · cases hf
    · exact hf
  · exact h

theorem runSessionStart_lawful (h : s.drain.Lawful) (args : List Byte) : (runSessionStart args s).state.drain.Lawful := by
  unfold runSessionStart
  split
  · exact h
  split
  · exact h
  split
  · exact h
  · exact startSession_lawful h _

theorem runSessionStop_lawful (h : s.drain.Lawful) : (runSessionStop s).state.drain.Lawful := by
  unfold runSessionStop
  split
  · exact settle_lawful (h.stopsTo (stopSession_stopsTo ..))
  · exact h

theorem runSeqFire_lawful (h : s.drain.Lawful) : (runSeqFire s).state.drain.Lawful := by
  unfold runSeqFire
  split
  · exact h.stopsTo (fire_stopsTo ..)
  · exact h

theorem runRingRelease_lawful (h : s.drain.Lawful) (args : List Byte) : (runRingRelease args s).state.drain.Lawful := by
  unfold runRingRelease
  split
  · exact h
  split
  · exact h
  · exact settle_lawful (Drain.Lawful.stopsTo (d := (releaseThrough _ s).drain) h (serveSlots_stopsTo _))

theorem runRollbackStart_lawful (h : s.drain.Lawful) (args : List Byte) :
    (runRollbackStart args s).state.drain.Lawful := by
  unfold runRollbackStart
  dsimp only
  split
  · exact h
  split
  · exact h
  split
  · exact h
  split
  · exact h
  split
  · exact h
  · refine settle_lawful ?_
    rw [(visit_rbWork ..).drain]
    exact h

theorem runRollbackAbort_lawful (h : s.drain.Lawful) : (runRollbackAbort s).state.drain.Lawful := by
  unfold runRollbackAbort
  split
  · exact h
  · refine settle_lawful ?_
    rwa [(endEarly_rbWork ..).drain]

/-- SPILL_SET takes sizes within the bounds of R119 only. -/
theorem spillArgBad_size {base size mark : Nat} (h : ¬ spillArgBad base size mark = true) (hs : size ≠ 0) :
    64 ≤ size ∧ size ≤ 262144 := by
  simp only [spillArgBad, Bool.and_eq_true, Bool.or_eq_true, bne_iff_ne, decide_eq_true_eq] at h
  omega

theorem runSpillSet_lawful (h : s.drain.Lawful) (args : List Byte) : (runSpillSet args s).state.drain.Lawful := by
  unfold runSpillSet
  split
  · exact h
  next hargs =>
    split
    · exact h
    split
    · exact h
    rw [done_state]
    unfold spillSet
    split
    · exact reset_lawful
    next hs =>
      obtain ⟨hmin, hmax⟩ := spillArgBad_size hargs hs
      exact settle_lawful (configured_lawful hmin hmax ..)

theorem runSpillConsume_lawful (h : s.drain.Lawful) (args : List Byte) :
    (runSpillConsume args s).state.drain.Lawful := by
  unfold runSpillConsume
  dsimp only
  split
  · exact h
  next hok =>
    push Not at hok
    exact settle_lawful (h.consume hok.1 hok.2)

theorem runDrainRestart_lawful (h : s.drain.Lawful) : (runDrainRestart s).state.drain.Lawful := by
  unfold runDrainRestart
  split
  next hfaulted => exact settle_lawful (h.restarted (h.faulted hfaulted) _)
  all_goals exact h

theorem portFrame_lawful {code : Byte} {argc : Nat} {run : List Byte → State → Reply} {f : Frame} (hs : s.drain.Lawful)
    (h : ∀ t : State, t.drain.Lawful → (run f.args t).state.drain.Lawful) : (portFrame code argc run f s).drain.Lawful :=
  portFrame_preserves (P := fun t => t.drain.Lawful) (fun _ _ ht => ht) hs h

end

/-! ### Every command -/

/-- Every command keeps the drain lawful. -/
theorem exec_lawful {c : Instr} {s t : State} (hs : s.drain.Lawful) (h : exec c s = .next t) : t.drain.Lawful := by
  have next : ∀ {u : State}, u.drain.Lawful → (.next u : Host.Outcome State Fault Refusal) = .next t → t.drain.Lawful :=
    fun hu e => Host.Outcome.next.inj e ▸ hu
  cases c with
  | pinReset => exact next reset_lawful h
  | resetNRelease | hostCreditOffer | emptyFrame => exact next (by split <;> exact hs) h
  | readReq => exact next (by split <;> [exact hs; rwa [arrive_drain]]) h
  | writeReq => exact next (by split <;> [exact hs; rwa [arrive_drain, useFree_drain]]) h
  | creditAnnouncement => exact next (by split <;> [exact hs; exact settle_lawful hs]) h
  | classification =>
    refine next ?_ h
    split
    · exact hs
    split
    · exact hs
    · exact hs
    · exact settle_lawful (by rwa [classifyHead_drain])
  | tick | stageExpiry => exact next (by rwa [tickAll_drain]) h
  | prereadResponse | memoryResponse | checkReadResponse | restoreResponse | drainResponse | strayResponse =>
    exact next (routeResponse_lawful hs ..) h
  | clearSession | clearWindows | clearEvents | clearAll =>
    exact next (portFrame_lawful hs fun u hu => runClear_lawful hu _) h
  | bypass => exact next (portFrame_lawful hs fun u hu => by rw [done_state]; split <;> [exact toBypass_lawful hu; exact hu]) h
  | sessionStart => exact next (portFrame_lawful hs fun u hu => runSessionStart_lawful hu _) h
  | sessionStop => exact next (portFrame_lawful hs fun u hu => runSessionStop_lawful hu) h
  | seqFire => exact next (portFrame_lawful hs fun u hu => runSeqFire_lawful hu) h
  | ringRelease => exact next (portFrame_lawful hs fun u hu => runRingRelease_lawful hu _) h
  | rollbackStart => exact next (portFrame_lawful hs fun u hu => runRollbackStart_lawful hu _) h
  | rollbackAbort => exact next (portFrame_lawful hs fun u hu => runRollbackAbort_lawful hu) h
  | spillSet => exact next (portFrame_lawful hs fun u hu => runSpillSet_lawful hu _) h
  | spillConsume => exact next (portFrame_lawful hs fun u hu => runSpillConsume_lawful hu _) h
  | drainRestart => exact next (portFrame_lawful hs fun u hu => runDrainRestart_lawful hu) h
  | winSet | winGet | winEnable | winDisable | seqSet | seqGet | seqLength | ringRead | holdRead =>
    refine next (portFrame_lawful hs fun u hu => ?_) h
    simp only [runWinSet, runWinGet, runWinEnabled, runSeqSet, runSeqGet, runSeqLength, runRingRead, runHoldRead]
    repeat' split
    all_goals exact hu
  | _ => exact next (portFrame_lawful hs fun u hu => hu) h

/-- Settles O57: a command keeps the drain lawful, and a period of REFCLK does not touch it. -/
theorem spillLawKept : Obligations.SpillLawKept := by
  intro s t hs h
  rw [spillLaw_iff] at hs ⊢
  rcases step_cases h with rfl | ⟨c, rest, hc⟩
  · unfold refclkPeriod
    split
    · exact hs
    split
    · exact hs
    · rwa [tickAll_drain]
  · exact exec_lawful (s := { s with pending := rest }) hs hc

end Sys2Proof.Machine
end

section
/-! The drain's responses and its commands: the end of a stop, the answered line write, and SPILL_SET, SPILL_CONSUME and
DRAIN_RESTART. -/

namespace Sys2Proof.Machine

/-! ### The last outstanding write -/

section
variable {s : State}

theorem drainQuiesce_same (h : s.drainTags ≠ [] ∨ s.drain.state ≠ .stopping ∧ s.drain.state ≠ .faulting) :
    drainQuiesce s = s := by
  unfold drainQuiesce
  split
  next htags =>
    obtain ⟨hstop, hfault⟩ := h.resolve_left (not_not.2 htags)
    split
    next hs => exact absurd hs hstop
    next hs => exact absurd hs hfault
    all_goals rfl
  · rfl

theorem drainQuiesce_stopping (ht : s.drainTags = []) (hs : s.drain.state = .stopping) :
    drainQuiesce s =
      if s.drain.endState = some .off then drainOff s else { s with drain := { s.drain.emptied with state := .ready } } := by
  simp only [drainQuiesce, if_pos ht, hs]

theorem drainQuiesce_faulting (ht : s.drainTags = []) (hs : s.drain.state = .faulting) :
    drainQuiesce s = { s with drain := { s.drain.emptied with state := .faulted } } := by
  simp only [drainQuiesce, if_pos ht, hs]

/-! ### The answered line write -/

variable {o : Outstanding} {k : Nat}

/-- After a clear a response brings nothing but the end of the stop (R132). -/
theorem drainResponded_ok_cleared (hc : s.drain.stopCause = some .clear) : drainResponded o .ok s = drainQuiesce s :=
  if_pos hc

theorem drainResponded_ok (hc : s.drain.stopCause ≠ some .clear) (hk : o.item = some k) :
    drainResponded o .ok s =
      drainQuiesce (retireAll (mapItem k (fun it => { it with okCount := it.okCount + 1 }) s)) := by
  rw [drainResponded, if_neg hc, hk]
  rfl

/-- The fault of a line write is raised and offered to the fault record (R128). -/
def lineFaulted (m : MemReq) (s : State) : State :=
  { s with events := { s.events with
      pending := s.events.pending ||| Event.drainFault.set
      fault := offered s.events.fault .drainFault .memory m.tag (some m.addr) s.time.counter } }

@[simp] theorem lineFaulted_drain (m : MemReq) (s : State) : (lineFaulted m s).drain = s.drain := rfl

theorem offerFault_lineFaulted (m : MemReq) (s : State) :
    offerFault .drainFault .memory m.tag (some m.addr) (raise .drainFault s) = lineFaulted m s := offerFault_eq ..

theorem drainResponded_fault_cleared (hc : s.drain.stopCause = some .clear) :
    drainResponded o .fault s = drainQuiesce (lineFaulted o.req s) := by
  simp only [drainResponded, offerFault_lineFaulted]
  exact if_pos hc

theorem drainResponded_fault (hc : s.drain.stopCause ≠ some .clear) (hk : o.item = some k) :
    drainResponded o .fault s = drainQuiesce { lineFaulted o.req s with drain := { s.drain with
      state := .faulting, offered := none, stopCause := none, endState := none
      inFlight := s.drain.inFlight.map fun it => if it.first = k then { it with faulted := true } else it } } := by
  simp only [drainResponded, offerFault_lineFaulted, lineFaulted_drain]
  rw [if_neg hc, hk]
  rfl

/-- A response to a drain line write goes to the drain, and the arbiter looks last (R123, R146). -/
theorem exec_drainResponse {n : BitVec 2} (h : s.answering o (BitVec.ofNat 8 (73 + n.toNat))) (hk : o.req.kind = .write)
    (st : MemStatus) :
    exec (.drainResponse n st) s =
      .next (settle (drainResponded o st (closeTag (BitVec.ofNat 8 (73 + n.toNat)) s))) := by
  show Host.Outcome.next (routeResponse _ st [] s) = _
  rw [routeResponse_answering h, responseFree_exact s (by simp [hk]), ownerResponded_drain (answering_tag h)]

end

/-- Settles O27: the end of a stop by the drain's state, then the response by its status and by whether a clear came first. -/
theorem drainLineAnswered : Obligations.DrainLineAnswered := by
  refine ⟨fun s => ⟨drainQuiesce_same, fun ht hs he => ?_, fun ht hs he => ?_, drainQuiesce_faulting⟩, ?_⟩
  · rw [drainQuiesce_stopping ht hs, if_pos he]
    rfl
  · rw [drainQuiesce_stopping ht hs, he]
    rfl
  rintro n o k s s' hans hkind htag hitem rfl
  refine ⟨fun hc => ⟨?_, ?_⟩, fun hc => ⟨?_, ?_⟩⟩
  · rw [exec_drainResponse hans hkind, drainResponded_ok (s := closeTag _ s) hc hitem]
    rfl
  · rw [exec_drainResponse hans hkind, drainResponded_fault (s := closeTag _ s) hc hitem, ← htag]
    rfl
  · rw [exec_drainResponse hans hkind, drainResponded_ok_cleared (s := closeTag _ s) hc]
  · rw [exec_drainResponse hans hkind, drainResponded_fault_cleared (s := closeTag _ s) hc, ← htag]
    rfl

/-! ### SPILL_SET -/

theorem spillArgBad_iff {base size mark : Nat} :
    spillArgBad base size mark = true ↔ size ≠ 0 ∧
      (size < 64 ∨ 262144 < size ∨ base % 64 ≠ 0 ∨ mark = 0 ∨ size < mark ∨ 2 ^ 40 ≤ base + 64 * size - 1) := by
  simp [spillArgBad, or_assoc]

section
variable {args : List Byte} {s : State}

theorem runSpillSet_badArg (h : spillArgBad (argField args 0 5) (argField args 5 3) (argField args 8 3) = true) :
    runSpillSet args s = refuses .badArg s := if_pos h

variable (h : ¬ spillArgBad (argField args 0 5) (argField args 5 3) (argField args 8 3) = true)
include h

theorem runSpillSet_badState (hs : s.drain.state = .faulted) : runSpillSet args s = refuses .badState s := by
  rw [runSpillSet, if_neg h, if_pos hs]

theorem runSpillSet_busy (hs : s.drain.state = .running ∨ s.drain.state = .stopping ∨ s.drain.state = .faulting) :
    runSpillSet args s = refuses .busy s := by
  have hfaulted : s.drain.state ≠ .faulted := by rcases hs with hs | hs | hs <;> simp [hs]
  rw [runSpillSet, if_neg h, if_neg hfaulted, if_pos hs]

theorem runSpillSet_done (hs : s.drain.state = .off ∨ s.drain.state = .ready) :
    runSpillSet args s = done (spillSet (argField args 0 5) (argField args 5 3) (argField args 8 3) s) := by
  have hfaulted : s.drain.state ≠ .faulted := by rcases hs with hs | hs <;> simp [hs]
  have hidle : ¬ (s.drain.state = .running ∨ s.drain.state = .stopping ∨ s.drain.state = .faulting) := by
    rcases hs with hs | hs <;> simp [hs]
  rw [runSpillSet, if_neg h, if_neg hfaulted, if_neg hidle]

end

/-! ### SPILL_CONSUME and DRAIN_RESTART -/

/-- The distance from c to newc is the one number of lines below the size that leads there over the wrap (R126). -/
theorem consumeDistance_eq {d : Drain} {newc n : Nat} (hc : d.c < d.size) (hn : n < d.size)
    (h : (d.c + n) % d.size = newc) : d.consumeDistance newc = n := by
  unfold Drain.consumeDistance
  by_cases hwrap : d.c + n < d.size
  · rw [Nat.mod_eq_of_lt hwrap] at h
    rw [← h, show d.c + n + d.size - d.c = n + d.size by omega, Nat.add_mod_right, Nat.mod_eq_of_lt hn]
  · rw [Nat.mod_eq_sub_mod (by omega), Nat.mod_eq_of_lt (by omega)] at h
    rw [← h, show d.c + n - d.size + d.size - d.c = n by omega, Nat.mod_eq_of_lt hn]

section
variable {args : List Byte} {s : State}

theorem runSpillConsume_badArg
    (h : s.drain.size ≤ argField args 0 3 ∨ s.drain.u < s.drain.consumeDistance (argField args 0 3)) :
    runSpillConsume args s = refuses .badArg s := if_pos h

theorem runSpillConsume_done (hnewc : argField args 0 3 < s.drain.size)
    (hu : s.drain.consumeDistance (argField args 0 3) ≤ s.drain.u) :
    runSpillConsume args s = done (settle { s with drain := { s.drain with
      c := argField args 0 3, u := s.drain.u - s.drain.consumeDistance (argField args 0 3) } }) :=
  if_neg (by omega)

theorem runDrainRestart_faulted (h : s.drain.state = .faulted) :
    runDrainRestart s = done (settle { s with drain := { s.drain with state := s.drainLive, q := s.drain.p } }) := by
  simp only [runDrainRestart, h]

theorem runDrainRestart_busy (h : s.drain.state = .faulting) : runDrainRestart s = refuses .busy s := by
  simp only [runDrainRestart, h]

theorem runDrainRestart_badState (h : s.drain.state ≠ .faulted) (hf : s.drain.state ≠ .faulting) :
    runDrainRestart s = refuses .badState s := by
  unfold runDrainRestart
  split
  next hs => exact absurd hs h
  next hs => exact absurd hs hf
  all_goals rfl

end

/-- Settles O43: each command's checks in their order, and its accepted case. -/
theorem drainCommands : Obligations.DrainCommands := by
  refine ⟨?_, ?_, fun f s h => ⟨fun hs => ?_, fun hs => ?_, fun hs hf => ?_⟩⟩
  · rintro f base size mark s h hf rfl rfl rfl
    refine ⟨fun ⟨hsize, hbad⟩ => ?_, fun hgood => ?_⟩
    · have hargs : spillArgBad (argField f.args 0 5) (argField f.args 5 3) (argField f.args 8 3) = true :=
        spillArgBad_iff.2 ⟨hsize, by omega⟩
      exact congrArg _ (portFrame_refuses h hf (runSpillSet_badArg hargs))
    · have hargs : ¬ spillArgBad (argField f.args 0 5) (argField f.args 5 3) (argField f.args 8 3) = true := by
        rw [spillArgBad_iff]
        omega
      refine ⟨fun hs => congrArg _ (portFrame_refuses h hf (runSpillSet_badState hargs hs)),
        fun hs => congrArg _ (portFrame_refuses h hf (runSpillSet_busy hargs hs)), fun hs hsize => ?_, fun hs hsize => ?_⟩
      · have hrun := runSpillSet_done (s := framed f s) hargs hs
        rw [spillSet, if_pos hsize] at hrun
        exact congrArg _ (portFrame_done h hf hrun)
      · have hrun := runSpillSet_done (s := framed f s) hargs hs
        rw [spillSet, if_neg hsize] at hrun
        exact congrArg _ (portFrame_done h hf hrun)
  · rintro f newc d s h hf rfl
    refine ⟨fun hnewc => congrArg _ (portFrame_refuses h hf (runSpillConsume_badArg (.inl hnewc))),
      fun hnewc hc hd hdist => ?_⟩
    obtain rfl := consumeDistance_eq hc hd hdist
    exact ⟨fun hu => congrArg _ (portFrame_refuses h hf (runSpillConsume_badArg (.inr hu))),
      fun hu => congrArg _ (portFrame_done h hf (runSpillConsume_done (s := framed f s) hnewc hu))⟩
  · exact congrArg _ (portFrame_done h (Nat.zero_le _) (runDrainRestart_faulted (s := framed f s) hs))
  · exact congrArg _ (portFrame_refuses h (Nat.zero_le _) (runDrainRestart_busy (s := framed f s) hs))
  · exact congrArg _ (portFrame_refuses h (Nat.zero_le _) (runDrainRestart_badState (s := framed f s) hs hf))

end Sys2Proof.Machine
end

section
/-! The drain's lines up to the memory link: placement, the line offered and its tag, and the grants at the end of an event. -/

namespace Sys2Proof.Machine

/-! ### Placement -/

section
variable {d : Drain} {r : Rec}

theorem place_fits (hfit : r.lineCount ≤ d.size - d.q) (hroom : r.lineCount ≤ d.freeLines) :
    d.place r =
      { d with inFlight := d.inFlight ++ [recordItem d.q r], q := (d.q + r.lineCount) % d.size } := by
  rw [Drain.place, if_pos hfit, if_pos hroom]

theorem place_padded (hfit : d.size - d.q < r.lineCount) (hroom : d.size - d.q + r.lineCount ≤ d.freeLines) :
    d.place r =
      { d with inFlight := d.inFlight ++ [padItem d.q (d.size - d.q), recordItem 0 r], q := r.lineCount } := by
  rw [Drain.place, if_neg (by omega), if_pos hroom]

theorem place_no_room (h : d.freeLines < if r.lineCount ≤ d.size - d.q then r.lineCount else d.size - d.q + r.lineCount) :
    d.place r = d := by
  unfold Drain.place
  split at h
  next hfit => rw [if_pos hfit, if_neg (by omega)]
  next hfit => rw [if_neg hfit, if_neg (by omega)]

/-- A placement that places puts an item behind the others of which no line has been issued. -/
theorem place_cases (d : Drain) (r : Rec) :
    d.place r = d ∨
      ∃ it rest, (d.place r).inFlight = d.inFlight ++ it :: rest ∧ it.issued = 0 ∧ 0 < it.writes := by
  have hpos := lineCount_pos r
  by_cases hroom : d.freeLines < if r.lineCount ≤ d.size - d.q then r.lineCount else d.size - d.q + r.lineCount
  · exact .inl (place_no_room hroom)
  right
  split at hroom
  next hfit => exact ⟨recordItem d.q r, [], by rw [place_fits hfit (by omega)], rfl, hpos⟩
  next hfit => 
    exact ⟨padItem d.q (d.size - d.q), [recordItem 0 r], by rw [place_padded (by omega) (by omega)], rfl, Nat.one_pos⟩

end

/-! ### The next line -/

theorem writes_eq (it : DrainItem) : it.writes = if it.seq = none then 1 else it.lines := by
  rw [DrainItem.writes]
  cases it.seq <;> rfl

section
variable {d : Drain}

theorem unissued_eq_none : d.unissued = none ↔ ∀ x ∈ d.inFlight, x.writes ≤ x.issued := by
  simp [Drain.unissued]

theorem unissued_eq_some {whole rest : List DrainItem} {it : DrainItem} (hflight : d.inFlight = whole ++ it :: rest)
    (hwhole : ∀ x ∈ whole, x.writes ≤ x.issued) (hit : it.issued < it.writes) : d.unissued = some it := by
  have hnone : whole.find? (fun x => decide (x.issued < x.writes)) = none := by simpa using hwhole
  rw [Drain.unissued, hflight, List.find?_append, hnone, List.find?_cons_of_pos (by simpa using hit)]
  rfl

/-- Behind items issued whole, the item to issue is the first that a placement adds. -/
theorem place_unissued (h : d.unissued = none) (r : Rec) :
    (d.place r).unissued = ((d.place r).inFlight.drop d.inFlight.length).head? ∧
    ∀ it, (d.place r).unissued = some it → it.issued = 0 := by
  rcases place_cases d r with hsame | ⟨it, rest, hflight, hissued, hwrites⟩
  · rw [hsame, h]
    simp
  · have hsome := unissued_eq_some hflight (unissued_eq_none.1 h) (by omega)
    rw [hsome, hflight]
    simp [hissued]

end

section
variable {s : State}

theorem drainPlaced_issuing {it : DrainItem} (h : s.drain.unissued = some it) : s.drainPlaced = s.drain := by
  rw [State.drainPlaced, if_pos (by simp [h])]

theorem drainPlaced_record (h : s.drain.unissued = none) {r : Rec} (hnext : s.nextRecord = some r)
    (hpend : r.isPending = false) : s.drainPlaced = s.drain.place r := by
  simp [State.drainPlaced, h, hnext, hpend]

theorem drainPlaced_waiting (hnext : ∀ r, s.nextRecord = some r → r.isPending = true) : s.drainPlaced = s.drain := by
  unfold State.drainPlaced
  split
  · rfl
  split
  next r hr => exact if_pos (hnext r hr)
  · rfl

/-- With nothing left to issue after placement, nothing has been placed. -/
theorem drainPlaced_of_unissued_none (h : s.drainPlaced.unissued = none) : s.drainPlaced = s.drain := by
  cases hd : s.drain.unissued with
  | some it => exact drainPlaced_issuing hd
  | none =>
    cases hnext : s.nextRecord with
    | none => exact drainPlaced_waiting (by simp [hnext])
    | some r =>
      cases hpend : r.isPending with
      | true => exact drainPlaced_waiting (by simp [hnext, hpend])
      | false =>
        rw [drainPlaced_record hd hnext hpend] at h ⊢
        refine (place_cases s.drain r).resolve_right ?_
        rintro ⟨it, rest, hflight, hissued, hwrites⟩
        rw [unissued_eq_some hflight (unissued_eq_none.1 hd) (by omega)] at h
        cases h

theorem offerNext_idle (h : ¬ (s.drain.state = .running ∧ s.drain.offered = none ∧ s.drainTags.length < 4)) :
    offerNext s = s := if_neg h

theorem offerNext_ready (hrun : s.drain.state = .running) (hoff : s.drain.offered = none)
    (htags : s.drainTags.length < 4) :
    offerNext s =
      { s with drain := { s.drainPlaced with offered := s.drainPlaced.unissued.map s.drainPlaced.lineOffer } } :=
  if_pos ⟨hrun, hoff, htags⟩

theorem offerNext_offered (h : s.drain.offered ≠ none) : offerNext s = s := offerNext_idle fun hready => h hready.2.1

/-- A drain that offers no line has not placed any. -/
theorem offerNext_of_none (h : (offerNext s).drain.offered = none) : offerNext s = s := by
  by_cases hready : s.drain.state = .running ∧ s.drain.offered = none ∧ s.drainTags.length < 4
  · obtain ⟨hrun, hoff, htags⟩ := hready
    rw [offerNext_ready hrun hoff htags] at h ⊢
    have hnone : s.drainPlaced.unissued = none := by simpa using h
    rw [hnone, drainPlaced_of_unissued_none hnone, Option.map_none, ← hoff]
  · exact offerNext_idle hready

theorem offerNext_offerNext (s : State) : offerNext (offerNext s) = offerNext s := by
  by_cases h : (offerNext s).drain.offered = none
  · rw [offerNext_of_none h, offerNext_of_none h]
  · exact offerNext_offered h

/-- A drain that has looked for a line does not find one because a request of another leaves on the memory link. -/
theorem offerNext_of_mem (h : offerNext s = s) {m : MemLink}
    (htags : s.drainTags.length ≤ (State.drainTags { s with mem := m }).length) :
    offerNext { s with mem := m } = { s with mem := m } := by
  by_cases hready : s.drain.state = .running ∧ s.drain.offered = none ∧ (State.drainTags { s with mem := m }).length < 4
  · obtain ⟨hrun, hoff, hlt⟩ := hready
    rw [offerNext_ready hrun hoff (by omega)] at h
    have hdrain := congrArg State.drain h
    rw [offerNext_ready (s := { s with mem := m }) hrun hoff hlt]
    exact congrArg (fun d => ({ s with mem := m, drain := d } : State)) hdrain
  · exact offerNext_idle hready

/-! ### The tag of a granted line -/

theorem isDrainTag_iff {t : MemTag} : isDrainTag t = true ↔ t = 73 ∨ t = 74 ∨ t = 75 ∨ t = 76 := by
  simp [isDrainTag, ← BitVec.toNat_inj]
  omega

theorem freeDrainTag_eq_some {t : MemTag} (hdrain : isDrainTag t = true) (hfree : t ∉ s.drainTags)
    (hlow : ∀ x, isDrainTag x = true → x.toNat < t.toNat → x ∈ s.drainTags) : s.freeDrainTag = some t := by
  unfold State.freeDrainTag
  rcases isDrainTag_iff.1 hdrain with rfl | rfl | rfl | rfl
  · simpa using hfree
  · simpa using ⟨hlow 73 rfl (by decide), hfree⟩
  · simpa using ⟨hlow 73 rfl (by decide), hlow 74 rfl (by decide), hfree⟩
  · simpa using ⟨hlow 73 rfl (by decide), hlow 74 rfl (by decide), hlow 75 rfl (by decide), hfree⟩

theorem grantDrain_eq {o : OfferedLine} {t : MemTag} (ho : s.drain.offered = some o) (ht : s.freeDrainTag = some t) :
    grantDrain s = offerNext (mapItem o.item (fun it => { it with issued := it.issued + 1 })
      (issue { kind := .write, tag := t, addr := o.addr, len := 64, data := o.data } (some o.item) .drain
        { s with drain := { s.drain with offered := none } })) := by
  rw [grantDrain, ho, ht]

theorem grantDrain_no_tag (ht : s.freeDrainTag = none) : grantDrain s = s := by
  unfold grantDrain
  split
  next hsome => rw [ht] at hsome; cases hsome
  · rfl

/-! ### The grants of an event -/

theorem grantee_empty (hq : s.mem.queue = []) :
    (s.drain.offered = none → s.grantee = none) ∧ (s.drain.offered ≠ none → s.grantee = some .drain) := by
  refine ⟨fun ho => by simp [State.grantee, hq, ho], fun ho => ?_⟩
  obtain ⟨o, ho⟩ := Option.ne_none_iff_exists'.1 ho
  simp [State.grantee, hq, ho]

theorem grantee_queued {m : MemReq} {rest : List MemReq} (hq : s.mem.queue = m :: rest) :
    (s.drain.offered = none → s.grantee = some .path) ∧
    (s.drain.offered ≠ none → s.mem.lastGrant = .path → s.grantee = some .drain) ∧
    (s.drain.offered ≠ none → s.mem.lastGrant = .drain → s.grantee = some .path) := by
  refine ⟨fun ho => by simp [State.grantee, hq, ho], fun ho hl => ?_, fun ho hl => ?_⟩
  all_goals
    obtain ⟨o, ho⟩ := Option.ne_none_iff_exists'.1 ho
    simp [State.grantee, hq, ho, hl]

theorem offered_of_grantee_drain (h : s.grantee = some .drain) : ∃ o, s.drain.offered = some o := by
  refine Option.ne_none_iff_exists'.1 fun ho => ?_
  cases hq : s.mem.queue with
  | nil => simp [(grantee_empty hq).1 ho] at h
  | cons m rest => simp [(grantee_queued hq).1 ho] at h

/-- How many grants an event has credits for (R145). -/
def State.freeCredits (s : State) : Nat := s.mem.credit - s.mem.outstanding.length

theorem settle_eq (s : State) : settle s = grants s.freeCredits (offerNext s) := by
  simp only [settle, offerNext_mem]
  rfl

/-- Where the drain has looked for a line, the end of the event is its grants. -/
theorem settle_of_looked (h : offerNext s = s) : settle s = grants s.freeCredits s := by rw [settle_eq, h]

theorem grants_none (h : s.grantee = none) (n : Nat) : grants n s = s := by
  cases n with
  | zero => rfl
  | succ n => simp [grants, h]

theorem grants_drain (h : s.grantee = some .drain) (n : Nat) : grants (n + 1) s = grants n (grantDrain s) := by
  simp [grants, h]

theorem grants_path (h : s.grantee = some .path) (n : Nat) : grants (n + 1) s = grants n (grantPath s) := by
  simp [grants, h]

/-- No credit is free, or no requester is ready: nothing is granted (R145). -/
theorem settle_no_grant (h : s.mem.credit ≤ s.mem.outstanding.length ∨ (offerNext s).grantee = none) :
    settle s = offerNext s := by
  rw [settle_eq]
  rcases h with h | h
  · rw [State.freeCredits, Nat.sub_eq_zero_of_le h]
    rfl
  · exact grants_none h _

/-- The drain is granted, and the event goes on (R122, R145). -/
theorem settle_grantDrain (hcredit : s.mem.outstanding.length < s.mem.credit)
    (h : (offerNext s).grantee = some .drain) : settle s = settle (grantDrain (offerNext s)) := by
  obtain ⟨o, ho⟩ := offered_of_grantee_drain h
  cases ht : (offerNext s).freeDrainTag with
  | none => rw [grantDrain_no_tag ht, settle_eq s, settle_eq, offerNext_offerNext, State.freeCredits, State.freeCredits,
      offerNext_mem]
  | some t =>
    have hlooked : offerNext (grantDrain (offerNext s)) = grantDrain (offerNext s) := by
      rw [grantDrain_eq ho ht, offerNext_offerNext]
    have hfree : s.freeCredits = (grantDrain (offerNext s)).freeCredits + 1 := by
      rw [grantDrain_eq ho ht, State.freeCredits, State.freeCredits, offerNext_mem]
      simp only [mapItem, issue, offerNext_mem, List.length_append, List.length_cons, List.length_nil]
      omega
    rw [settle_of_looked hlooked, settle_eq, hfree, grants_drain h]

theorem grantPath_eq {m : MemReq} {rest : List MemReq} (hq : s.mem.queue = m :: rest) :
    grantPath s = { s with mem := { s.mem with
      queue := rest, outstanding := s.mem.outstanding ++ [{ req := m, item := none }], sent := s.mem.sent ++ [m]
      lastGrant := .path } } := by
  rw [grantPath, hq]
  rfl

/-- The head of the path issue queue is granted, and the event goes on (R144, R145). -/
theorem settle_grantPath (hcredit : s.mem.outstanding.length < s.mem.credit) (h : (offerNext s).grantee = some .path)
    {m : MemReq} {rest : List MemReq} (hq : (offerNext s).mem.queue = m :: rest) :
    settle s = settle (grantPath (offerNext s)) := by
  have hlooked : offerNext (grantPath (offerNext s)) = grantPath (offerNext s) := by
    rw [grantPath_eq hq]
    refine offerNext_of_mem (offerNext_offerNext s) ?_
    simp [State.drainTags]
  have hfree : s.freeCredits = (grantPath (offerNext s)).freeCredits + 1 := by
    rw [grantPath_eq hq, State.freeCredits, State.freeCredits]
    simp only [offerNext_mem, List.length_append, List.length_cons, List.length_nil]
    omega
  rw [settle_of_looked hlooked, settle_eq, hfree, grants_path h]

end

/-- Settles O29: the grant that an event begins with, and what all of its grants leave unchanged. -/
theorem settleIssuesInOrder : Obligations.SettleIssuesInOrder := by
  refine ⟨?_, fun s hq => ?_, fun s => grantee_empty, fun s m rest => grantee_queued⟩
  · rintro s t rfl
    refine ⟨settle_no_grant, settle_grantDrain, fun m rest hcredit hpath hq => ?_⟩
    rw [settle_grantPath hcredit hpath hq, grantPath_eq hq]
  · have hwork := settle_grantWork s
    obtain ⟨ms, hsent, hout, hqueue⟩ := hwork.issued
    refine ⟨ms, hsent, hout, hqueue hq, hwork.credit, ?_, hwork.idle⟩
    have hmem : (settle s).mem = { s.mem with
        queue := (settle s).mem.queue, outstanding := (settle s).mem.outstanding, lastGrant := (settle s).mem.lastGrant
        sent := (settle s).mem.sent } := congrArg State.mem hwork.same
    conv_lhs => rw [hwork.same, ← hmem]

end Sys2Proof.Machine
end

section
/-! The drain's lines: which line is offered next, and the bytes of records and PADs. -/

namespace Sys2Proof.Machine

/-! ### The next record -/

section
variable {s : State} {next : Option Rec}

/-- The next record is the oldest of the ring, or the one after the newest in flight, which is no PAD (R121). -/
theorem nextRecord_eq (hempty : s.drain.inFlight = [] → next = s.ring.recs.head?)
    (hafter : ∀ whole it n, s.drain.inFlight = whole ++ [it] → it.seq = some n → next = s.ring.find (n + 1))
    (hlast : ∀ it, s.drain.inFlight.getLast? = some it → it.seq ≠ none) : s.nextRecord = next := by
  unfold State.nextRecord
  split
  next hnone => exact (hempty (List.getLast?_eq_none_iff.1 hnone)).symm
  next it hit =>
    obtain ⟨whole, hflight⟩ := List.getLast?_eq_some_iff.1 hit
    obtain ⟨n, hn⟩ := Option.ne_none_iff_exists'.1 (hlast it hit)
    rw [hn, hafter whole it n hflight hn]
    rfl

/-- The first line of an item of which no line has been issued. -/
theorem lineOffer_first (d : Drain) {it : DrainItem} (h : it.issued = 0) :
    d.lineOffer it =
      { item := it.first, addr := d.base + BitVec.ofNat 40 (64 * (it.first % d.size)), data := it.bytes.take 64 } := by
  simp [Drain.lineOffer, h]

variable (hrun : s.drain.state = .running) (hoff : s.drain.offered = none) (htags : s.drainTags.length < 4)
include hrun hoff htags

theorem offerNext_issuing {it : DrainItem} (h : s.drain.unissued = some it) :
    offerNext s = { s with drain := { s.drain with offered := some (s.drain.lineOffer it) } } := by
  rw [offerNext_ready hrun hoff htags, drainPlaced_issuing h, h]
  rfl

/-- With no record to place, and nothing to issue, the drain waits (R121). -/
theorem offerNext_waiting (h : s.drain.unissued = none) (hnext : ∀ r, s.nextRecord = some r → r.isPending = true) :
    offerNext s = s := by
  rw [offerNext_ready hrun hoff htags, drainPlaced_waiting hnext, h, Option.map_none, ← hoff]

/-- The drain places the next record, and offers the first line of what it has placed (R121). -/
theorem offerNext_placing (h : s.drain.unissued = none) {r : Rec} (hnext : s.nextRecord = some r)
    (hpend : r.isPending = false) :
    offerNext s = { s with drain := { s.drain.place r with
      offered := ((s.drain.place r).inFlight.drop s.drain.inFlight.length).head?.map fun it =>
        { item := it.first, addr := s.drain.base + BitVec.ofNat 40 (64 * (it.first % s.drain.size))
          data := it.bytes.take 64 } } } := by
  obtain ⟨hfirst, hissued⟩ := place_unissued h r
  rw [offerNext_ready hrun hoff htags, drainPlaced_record h hnext hpend, ← hfirst]
  have hline : ∀ it, (s.drain.place r).unissued = some it → (s.drain.place r).lineOffer it =
      { item := it.first, addr := s.drain.base + BitVec.ofNat 40 (64 * (it.first % s.drain.size))
        data := it.bytes.take 64 } := fun it hit => by
    rw [lineOffer_first _ (hissued it hit), place_size, place_base]
  rw [Option.map_congr hline]

end

/-! ### The bytes of records and PADs -/

/-- The run of a record with data: its header, its old data or zeros, its new data, and zeros to the end of its lines (R120,
R173). -/
theorem spillRun_data {r : Rec} {w : WriteInfo} (hr : (∃ st b, r.body = .write w st b) ∨ r.body = .refused w)
    (hold : ∀ old, w.oldData = some old → old.length = w.len) (hnew : w.newData.length = w.len) :
    r.lineCount = (if w.len ≤ 16 then 1 else if w.len ≤ 48 then 2 else 3) ∧
    r.spillRun = r.header.bytesBy leBytes ++ w.oldData.getD (List.replicate w.len 0) ++ w.newData ++
      List.replicate (64 * r.lineCount - 32 - 2 * w.len) 0 := by
  have hpad : padTo w.len (w.oldData.getD []) = w.oldData.getD (List.replicate w.len 0) := by
    cases hw : w.oldData with
    | none => simp [padTo, zeros]
    | some old => simp [padTo, zeros, hold old hw]
  have hlen : (w.oldData.getD (List.replicate w.len 0)).length = w.len := by
    cases hw : w.oldData with
    | none => simp
    | some old => simpa using hold old hw
  have hfields : r.lineCount = (if w.len ≤ 16 then 1 else if w.len ≤ 48 then 2 else 3) ∧ r.dataLen = w.len ∧
      r.oldBytes = w.oldData.getD [] ∧ r.newBytes = w.newData := by
    rcases hr with ⟨st, b, hr⟩ | hr <;> simp [Rec.lineCount, Rec.dataLen, Rec.oldBytes, Rec.newBytes, hr]
  obtain ⟨hlines, hdata, holdBytes, hnewBytes⟩ := hfields
  refine ⟨hlines, ?_⟩
  rw [Rec.spillRun, hdata, holdBytes, hnewBytes, hpad, padTo, zeros]
  simp only [List.length_append, header_length_le, hlen, hnew]
  rw [show 64 * r.lineCount - (32 + w.len + w.len) = 64 * r.lineCount - 32 - 2 * w.len by omega]

/-- The run of a record without data: its header, and zeros to the end of its line (R120, R173). -/
theorem spillRun_bare {r : Rec} (hr : (∃ n, r.body = .gap n) ∨ ∃ c, r.body = .trigger c) :
    r.lineCount = 1 ∧ r.spillRun = r.header.bytesBy leBytes ++ List.replicate 32 0 := by
  have hfields : r.lineCount = 1 ∧ r.dataLen = 0 ∧ r.oldBytes = [] ∧ r.newBytes = [] := by
    rcases hr with ⟨n, hr⟩ | ⟨c, hr⟩ <;> simp [Rec.lineCount, Rec.dataLen, Rec.oldBytes, Rec.newBytes, hr]
  obtain ⟨hlines, hdata, hold, hnew⟩ := hfields
  refine ⟨hlines, ?_⟩
  simp [Rec.spillRun, hlines, hdata, hold, hnew, padTo, zeros, header_length_le]

theorem leBytes_zero (k : Nat) : leBytes k 0 = List.replicate k 0 := by
  induction k with
  | zero => rfl
  | succ k ih => rw [leBytes, Nat.zero_div, ih]; rfl

/-- The line of a PAD: its header, of which only the kind and the line count are not zero, and zeros (R173). -/
theorem padRun_eq (n : Nat) :
    padRun n = leBytes 1 5 ++ List.replicate 28 0 ++ leBytes 1 n ++ List.replicate 34 0 := by
  rw [padRun, padTo, header_length_le]
  simp [Header.bytesBy, padHeader, leBytes_zero, zeros, List.replicate]

/-- Byte `k` of a number, least significant first (R172). -/
theorem leBytes_getD {n k : Nat} (h : k < n) (v : Nat) : (leBytes n v).getD k 0 = BitVec.ofNat 8 (v / 256 ^ k) := by
  induction k generalizing n v with
  | zero =>
    cases n with
    | zero => cases h
    | succ n => simp [leBytes]
  | succ k ih =>
    cases n with
    | zero => cases h
    | succ n =>
      rw [leBytes, List.getD_cons_succ, ih (by omega), Nat.div_div_eq_div_mul, Nat.pow_succ']

theorem flagsByte_eq (w : WriteInfo) (b : Bool) :
    flagsByte w b = (if w.oldData = none then 1 else 0) + if b then 2 else 0 := by
  cases hw : w.oldData <;> cases b <;> simp [flagsByte, yesNo, hw]

/-! ### The bytes of a header -/

/-- The part that the headers of WRITE and REFUSED records share, from the kind to the address (11.5, R172). -/
def dataHead (bytes : Nat → Nat → List Byte) (seq : Nat) (time : Time) (w : WriteInfo) (kind : Nat) : List Byte :=
  bytes 1 kind ++ bytes 1 w.len ++ bytes 1 w.source.toNat ++ bytes 1 w.tag.toNat ++ bytes 4 seq ++ bytes 6 time.toNat ++
    bytes 5 w.addr.toNat

section
variable {bytes : Nat → Nat → List Byte} (h0 : ∀ k, bytes k 0 = List.replicate k 0) (seq : Nat) (time : Time)
include h0

theorem header_write (w : WriteInfo) (st : RecOutcome) (b : Bool) :
    (⟨seq, time, .write w st b⟩ : Rec).header.bytesBy bytes =
      dataHead bytes seq time w 1 ++ bytes 1 st.code ++ bytes 1 (flagsByte w b) ++ [0, 0] ++ bytes 2 w.windows.toNat ++
        List.replicate 7 0 := by
  simp [Rec.header, Header.bytesBy, dataHead, h0, List.replicate]

theorem header_refused (w : WriteInfo) :
    (⟨seq, time, .refused w⟩ : Rec).header.bytesBy bytes =
      dataHead bytes seq time w 2 ++ [0] ++ bytes 1 (flagsByte w false) ++ [0, 0] ++ bytes 2 w.windows.toNat ++
        List.replicate 7 0 := by
  simp [Rec.header, Header.bytesBy, dataHead, h0, List.replicate]

theorem header_gap (n : Nat) :
    (⟨seq, time, .gap n⟩ : Rec).header.bytesBy bytes =
      bytes 1 3 ++ [0, 0, 0] ++ bytes 4 seq ++ bytes 6 time.toNat ++ List.replicate 11 0 ++ bytes 4 n ++
        List.replicate 3 0 := by
  simp [Rec.header, Header.bytesBy, h0, List.replicate]

theorem header_sequence (n : Nat) :
    (⟨seq, time, .trigger (.sequence n)⟩ : Rec).header.bytesBy bytes =
      bytes 1 4 ++ [0, 0, 0] ++ bytes 4 seq ++ bytes 6 time.toNat ++ List.replicate 7 0 ++ bytes 1 1 ++ bytes 1 n ++
        List.replicate 9 0 := by
  simp [Rec.header, Header.bytesBy, h0, List.replicate]

theorem header_manual :
    (⟨seq, time, .trigger .manual⟩ : Rec).header.bytesBy bytes =
      bytes 1 4 ++ [0, 0, 0] ++ bytes 4 seq ++ bytes 6 time.toNat ++ List.replicate 7 0 ++ bytes 1 2 ++
        List.replicate 10 0 := by
  simp [Rec.header, Header.bytesBy, h0, List.replicate]

end

/-- Settles O60: placement, the line that the drain offers next and the tag it is granted, then the bytes of a record, of a
PAD and of a header, kind by kind. -/
theorem spillLines : Obligations.SpillLines := by
  have hissued : ∀ {l : List DrainItem}, (∀ x ∈ l, (if x.seq = none then 1 else x.lines) ≤ x.issued) →
      ∀ x ∈ l, x.writes ≤ x.issued := fun h x hx => by
    rw [writes_eq]
    exact h x hx
  refine ⟨?_, fun s => ⟨fun hidle => offerNext_idle ?_, fun hrun hoff htags => ⟨?_, ?_⟩, ?_⟩, ?_, ?_, padRun_eq, ?_, ?_⟩
  · rintro d r L room it pad rfl rfl rfl rfl
    refine ⟨fun hfit hroom => ?_, fun hfit hroom => ?_, fun hroom => place_no_room hroom⟩
    · rw [place_fits hfit hroom, if_pos hfit]
      rfl
    · rw [place_padded hfit hroom, if_neg (by omega)]
      rfl
  · rintro ⟨hrun, hoff, htags⟩
    rcases hidle with h | h | h
    · exact h hrun
    · exact h hoff
    · omega
  · rintro whole it rest hflight hwhole hit line rfl
    have hnext := unissued_eq_some hflight (hissued hwhole) (by rwa [writes_eq])
    rw [offerNext_issuing hrun hoff htags hnext]
    rfl
  · intro next hwhole hempty hafter hlast
    have hnone := unissued_eq_none.2 (hissued hwhole)
    obtain rfl := nextRecord_eq hempty hafter hlast
    refine ⟨fun hpend => offerNext_waiting hrun hoff htags hnone hpend, ?_⟩
    rintro r d hr hpend rfl
    exact offerNext_placing hrun hoff htags hnone hr hpend
  · intro o t ho hdrain hfree hlow
    rw [grantDrain_eq ho (freeDrainTag_eq_some hdrain hfree hlow)]
    rfl
  · rintro seq time w st b L - - hnew hold rfl r hr
    have hbody : (∃ st b, r.body = .write w st b) ∨ r.body = .refused w := by
      rcases hr with rfl | rfl
      · exact .inl ⟨st, b, rfl⟩
      · exact .inr rfl
    obtain ⟨hlines, hrun⟩ := spillRun_data hbody hold hnew
    exact ⟨hlines, by rw [hrun, hlines]⟩
  · rintro seq time n c r hr
    refine spillRun_bare ?_
    rcases hr with rfl | rfl
    · exact .inl ⟨n, rfl⟩
    · exact .inr ⟨c, rfl⟩
  · rintro bytes seq time w st b n head h0 hhead
    obtain rfl : head = dataHead bytes seq time w := funext hhead
    have hflags : flagsByte w false = if w.oldData = none then 1 else 0 := flagsByte_eq w false
    refine ⟨?_, ?_, header_gap h0 seq time n, header_sequence h0 seq time n, header_manual h0 seq time⟩
    · rw [header_write h0, flagsByte_eq]
      rfl
    · rw [header_refused h0, hflags]
  · exact fun n v k hk => ⟨leBytes_length n v, leBytes_getD hk v, rfl⟩

end Sys2Proof.Machine
end

section
/-! The host requests in the part, counted by their tags: what each operation of the hold table and of the links does to the
counts, and which hold entries it leaves (R136). -/

namespace Sys2Proof.Machine

/-! ### The tags by their places -/

/-- The host tag of the write that an entry's owner holds (R19). -/
def HoldOwner.tags : HoldOwner → List HostTag
  | .reading w => [w.req.tag]
  | .slotWait w _ _ => [w.req.tag]
  | .checking => []

/-- The host tag of a parked request; none for a claim (R26). -/
def Parked.hostTag : Parked → Option HostTag
  | .host r _ => some r.tag
  | .claim _ => none

/-- The host tags of the requests outside the hold table. -/
def State.linkTags (s : State) : List HostTag :=
  s.ingress.queue.map HostReq.tag ++ s.mem.queue.filterMap MemReq.hostTag ++
    s.mem.outstanding.filterMap fun o => o.req.hostTag

/-- How many requests with a tag are in the part. -/
def State.tagCount (s : State) (a : HostTag) : Nat := s.tagsInPart.count a

/-- How many requests with a tag are in the part elsewhere than in hold entry `i`. -/
def State.tagCountBut (s : State) (i : Nat) (a : HostTag) : Nat :=
  s.linkTags.count a + ∑ j ∈ (Finset.range 8).erase i, (s.entry j).tags.count a

theorem tags_owned (line : Addr) (o : HoldOwner) (l : List Parked) :
    (HoldEntry.owned line o l).tags = o.tags ++ l.filterMap Parked.hostTag := by
  cases o <;> rfl

theorem tagCount_eq_sum (s : State) (a : HostTag) :
    s.tagCount a = s.linkTags.count a + ∑ j ∈ Finset.range 8, (s.entry j).tags.count a := by
  have hentries : (s.hold.entries.toList.flatMap HoldEntry.tags).count a =
      ∑ j ∈ Finset.range 8, (s.entry j).tags.count a := by
    rw [entries_toList, List.count_flatMap, List.map_map]
    rfl
  simp only [State.tagCount, State.tagsInPart, State.linkTags, List.count_append, hentries]
  omega

/-- The count, split at one entry. -/
theorem tagCount_split (s : State) {i : Nat} (hi : i < 8) (a : HostTag) :
    s.tagCount a = s.tagCountBut i a + (s.entry i).tags.count a := by
  have hsplit := Finset.add_sum_erase (Finset.range 8) (fun j => (s.entry j).tags.count a) (Finset.mem_range.2 hi)
  rw [tagCount_eq_sum, State.tagCountBut]
  omega

section
variable {s t : State}

theorem tagCount_congr (hlinks : ∀ a, t.linkTags.count a = s.linkTags.count a) (hhold : t.hold = s.hold) (a : HostTag) :
    t.tagCount a = s.tagCount a := by
  simp only [tagCount_eq_sum, hlinks, entry_congr hhold]

theorem tagCountBut_congr {i : Nat} (hlinks : ∀ a, t.linkTags.count a = s.linkTags.count a)
    (hentry : ∀ j ≠ i, t.entry j = s.entry j) (a : HostTag) : t.tagCountBut i a = s.tagCountBut i a := by
  unfold State.tagCountBut
  rw [hlinks]
  congr 1
  exact Finset.sum_congr rfl fun j hj => by rw [hentry j (Finset.ne_of_mem_erase hj)]

end

/-! ### The memory link's requests -/

theorem hostTag_item (r : HostReq) : r.item.hostTag = some r.tag := by
  have hlt := r.tag.isLt
  have htag : r.item.tag.toNat = r.tag.toNat := by
    simp only [HostReq.item, BitVec.toNat_setWidth]
    omega
  rw [MemReq.hostTag, if_pos (by omega)]
  simp [HostReq.item]

theorem hostTag_preRead {i : Nat} (hi : i < 8) (line : Addr) : (preRead i line).hostTag = none := by
  rw [MemReq.hostTag, if_neg]
  simp only [preRead, BitVec.toNat_ofNat]
  omega

theorem hostTag_checkRead (line : Addr) : (checkRead line).hostTag = none := rfl

theorem hostTag_restoreOf {r : Rec} {m : MemReq} (h : restoreOf r = some m) : m.hostTag = none := by
  unfold restoreOf at h
  split at h <;> simp only [Option.map_eq_some_iff, reduceCtorEq] at h
  obtain ⟨old, -, rfl⟩ := h
  rfl

theorem linkTags_enqueue (m : MemReq) (s : State) (a : HostTag) :
    (enqueue m s).linkTags.count a = s.linkTags.count a + m.hostTag.toList.count a := by
  have hqueue : (enqueue m s).mem.queue.filterMap MemReq.hostTag =
      s.mem.queue.filterMap MemReq.hostTag ++ m.hostTag.toList := by
    cases h : m.hostTag <;> simp [enqueue, h]
  simp only [State.linkTags, hqueue, enqueue_ingress, List.count_append]
  have hout : (enqueue m s).mem.outstanding = s.mem.outstanding := rfl
  rw [hout]
  omega

theorem tagCount_enqueue (m : MemReq) (s : State) (a : HostTag) :
    (enqueue m s).tagCount a = s.tagCount a + m.hostTag.toList.count a := by
  have hentry : ∀ j, (enqueue m s).entry j = s.entry j := fun _ => rfl
  simp only [tagCount_eq_sum, linkTags_enqueue, hentry]
  omega

theorem tagCountBut_enqueue (m : MemReq) (s : State) (i : Nat) (a : HostTag) :
    (enqueue m s).tagCountBut i a = s.tagCountBut i a + m.hostTag.toList.count a := by
  have hentry : ∀ j, (enqueue m s).entry j = s.entry j := fun _ => rfl
  simp only [State.tagCountBut, linkTags_enqueue, hentry]
  omega

theorem queueRestore_linkTags (s : State) (a : HostTag) : (queueRestore s).linkTags.count a = s.linkTags.count a := by
  unfold queueRestore
  dsimp only
  split
  next m hm =>
    obtain ⟨r, -, hr⟩ := Option.bind_eq_some_iff.1 hm
    rw [linkTags_enqueue, hostTag_restoreOf hr]
    rfl
  · rfl

/-! ### The ingress head -/

theorem popHead_linkTags {s : State} {r : HostReq} {rest : List HostReq} (hq : s.ingress.queue = r :: rest) (a : HostTag) :
    (popHead s).linkTags.count a + [r.tag].count a = s.linkTags.count a := by
  simp only [State.linkTags, popHead, hq, List.tail_cons, List.map_cons, List.count_append, List.count_cons,
    List.count_nil]
  omega

theorem tagCountBut_popHead {s : State} {r : HostReq} {rest : List HostReq} (hq : s.ingress.queue = r :: rest) (i : Nat)
    (a : HostTag) : (popHead s).tagCountBut i a + [r.tag].count a = s.tagCountBut i a := by
  have hlinks := popHead_linkTags hq a
  have hentry : ∀ j, (popHead s).entry j = s.entry j := fun _ => rfl
  simp only [State.tagCountBut, hentry]
  omega

theorem tagCount_popHead {s : State} {r : HostReq} {rest : List HostReq} (hq : s.ingress.queue = r :: rest)
    (a : HostTag) : (popHead s).tagCount a + [r.tag].count a = s.tagCount a := by
  have hlinks := popHead_linkTags hq a
  have hentry : ∀ j, (popHead s).entry j = s.entry j := fun _ => rfl
  simp only [tagCount_eq_sum, hentry]
  omega

theorem waitingHead_queue {s : State} {w : HeldWrite} (h : s.waitingHead = some w) :
    ∃ rest, s.ingress.queue = w.req :: rest := by
  unfold State.waitingHead at h
  split at h
  next r rest cands hq _ =>
    obtain rfl := Option.some.inj h
    exact ⟨rest, hq⟩
  · simp at h

/-! ### Work on one entry -/

/-- `t` comes from `s` by work that ends with requests of the tags `l` in entry `i`, or passed on from it, in the place of
those that it held: the other entries are as before. -/
structure EntryWork (i : Nat) (l : List HostTag) (s t : State) : Prop where
  tags : ∀ a, t.tagCount a = s.tagCountBut i a + l.count a
  others : ∀ j ≠ i, t.entry j = s.entry j

section
variable {i : Nat} (hi : i < 8)
include hi

theorem setEntry_entryWork (e : HoldEntry) (s : State) : EntryWork i e.tags s (s.setEntry i e) := by
  have hothers : ∀ j ≠ i, (s.setEntry i e).entry j = s.entry j := fun j hj => entry_setEntry_other s e hj.symm
  refine ⟨fun a => ?_, hothers⟩
  rw [tagCount_split _ hi, entry_setEntry_same s e hi, tagCountBut_congr (s := s) (t := s.setEntry i e) (fun _ => rfl) hothers]

end

/-- Work on the entry after a change elsewhere that leaves the other entries. -/
theorem EntryWork.after {i : Nat} {l m : List HostTag} {s t u : State} (h : EntryWork i l t u)
    (htags : ∀ a, t.tagCountBut i a + l.count a = s.tagCountBut i a + m.count a)
    (hothers : ∀ j ≠ i, t.entry j = s.entry j) : EntryWork i m s u :=
  ⟨fun a => (h.tags a).trans (htags a), fun j hj => (h.others j hj).trans (hothers j hj)⟩

/-- Work on the entry reads of the state before only the tags and the other entries. -/
theorem EntryWork.of_eq {i : Nat} {l : List HostTag} {s t u : State} (h : EntryWork i l t u) (hhold : t.hold.entries = s.hold.entries)
    (hin : t.ingress.queue = s.ingress.queue) (hmem : t.mem = s.mem) : EntryWork i l s u := by
  have hentry : ∀ j, t.entry j = s.entry j := fun j => by simp only [State.entry, hhold]
  refine h.after (fun a => ?_) fun j _ => hentry j
  rw [tagCountBut_congr (fun b => by simp only [State.linkTags, hin, hmem]) fun j _ => hentry j]

theorem EntryWork.enqueue {i : Nat} {l : List HostTag} {s t : State} (h : EntryWork i l s t) {m : MemReq}
    (hm : m.hostTag = none) : EntryWork i l s (enqueue m t) :=
  ⟨fun a => by rw [tagCount_enqueue, hm]; exact h.tags a, h.others⟩

/-- What the engine's claim is granted leaves the tags: a restore is not a host request (R108). -/
theorem tagCountBut_queueRestore (i : Nat) (s : State) (a : HostTag) : (queueRestore s).tagCountBut i a = s.tagCountBut i a :=
  tagCountBut_congr (queueRestore_linkTags s) (fun j _ => entry_congr (queueRestore_hold s) j) a

section
variable {i : Nat} (hi : i < 8)
include hi

theorem own_entryWork (w : HeldWrite) (l : List Parked) (s : State) :
    EntryWork i (w.req.tag :: l.filterMap Parked.hostTag) s (own i w l s) :=
  (setEntry_entryWork hi (.owned _ (.reading w) l) s).enqueue (hostTag_preRead hi _)

theorem takeEntry_entryWork (w : HeldWrite) (s : State) : EntryWork i [w.req.tag] s (takeEntry i w s) := by
  unfold takeEntry
  split
  next c _ =>
    have hown := own_entryWork hi w [.claim c] s
    exact ⟨hown.tags, hown.others⟩
  · exact own_entryWork hi w [] s

theorem holdForCheck_entryWork (line : Addr) (l : List Parked) (s : State) :
    EntryWork i (l.filterMap Parked.hostTag) s (holdForCheck i line l s) := by
  have hset := setEntry_entryWork hi (.owned line .checking l)
    { s with rollback := { s.rollback with state := .checking } }
  exact (hset.of_eq (s := s) rfl rfl rfl).enqueue (hostTag_checkRead line)

theorem offerFree_entryWork : ∀ (l : List Claimant) (s : State), EntryWork i [] s (offerFree i l s)
  | [], s => setEntry_entryWork hi .free s
  | .head :: rest, s => by
    cases hw : s.waitingHead with
    | none =>
      simp only [offerFree, hw]
      exact (setEntry_entryWork hi .free (setArbiter rest s)).of_eq rfl rfl rfl
    | some w =>
      obtain ⟨q, hq⟩ := waitingHead_queue hw
      rw [offerFree_head i hw]
      exact (takeEntry_entryWork hi w _).after (s := s)
        (fun a => tagCountBut_popHead (s := setArbiter rest s) hq i a) fun _ _ => rfl
  | .rollback c :: rest, s => by
    by_cases hline : ∃ w, s.waitingHead = some w ∧ lineOf w.req.addr = c.line
    · obtain ⟨w, hw, hline⟩ := hline
      obtain ⟨q, hq⟩ := waitingHead_queue hw
      have hpop := tagCountBut_popHead (s := setArbiter (rest.filter fun x => !x.isHead) s) hq i
      by_cases hm : c.mode = .force
      · rw [offerFree_both_force i hw hline hm]
        refine (own_entryWork hi w [] _).after (s := s) (fun a => ?_) fun j _ => entry_congr (queueRestore_hold _) j
        rw [tagCountBut_queueRestore]
        exact hpop a
      · rw [offerFree_both_check i hw hline hm]
        exact (holdForCheck_entryWork hi c.line [.host w.req w.cands] _).after (s := s) hpop fun _ _ => rfl
    · have hother : ∀ w, s.waitingHead = some w → lineOf w.req.addr ≠ c.line := fun w hw hl => hline ⟨w, hw, hl⟩
      by_cases hm : c.mode = .force
      · rw [offerFree_claim_force i hother hm]
        exact (offerFree_entryWork rest _).after (s := s)
          (fun a => by rw [tagCountBut_queueRestore]; rfl) fun j _ => entry_congr (queueRestore_hold _) j
      · rw [offerFree_claim_check i hother hm]
        exact (holdForCheck_entryWork hi c.line [] (setArbiter rest s)).of_eq rfl rfl rfl

/-- A walk passes on or keeps the requests of its list, each once (R34). -/
theorem walk_entryWork : ∀ (l : List Parked) (s : State), EntryWork i (l.filterMap Parked.hostTag) s (walk i l s)
  | [], s => offerFree_entryWork hi _ s
  | .host r cands :: rest, s => by
    by_cases hc : cands = 0
    · rw [hc, walk_unwatched]
      refine (walk_entryWork rest _).after (s := s) (fun a => ?_) fun _ _ => rfl
      rw [tagCountBut_enqueue, hostTag_item, List.filterMap_cons, Parked.hostTag, List.count_cons]
      simp [List.count_cons]
      omega
    · rw [walk_watched i hc]
      exact own_entryWork hi ⟨r, cands⟩ rest s
  | .claim c :: rest, s => by
    by_cases hm : c.mode = .force
    · rw [walk_claim_force i hm]
      exact (walk_entryWork rest _).after (s := s)
        (fun a => by rw [tagCountBut_queueRestore]; rfl) fun j _ => entry_congr (queueRestore_hold s) j
    · rw [walk_claim_check i hm]
      exact holdForCheck_entryWork hi c.line rest s

end

/-- A release takes the owner's request out of the part and keeps the others in it (R34). -/
theorem release_tags {s : State} {i : Nat} {line : Addr} {o : HoldOwner} {l : List Parked} (he : s.entry i = .owned line o l)
    (a : HostTag) : (release i s).tagCount a + o.tags.count a = s.tagCount a := by
  have hi := entry_lt he
  rw [release_owned he, (walk_entryWork hi l s).tags, tagCount_split s hi, he, tags_owned, List.count_append]
  omega

theorem release_others {s : State} {i j : Nat} (hj : j ≠ i) : (release i s).entry j = s.entry j := by
  cases he : s.entry i with
  | free => simp [release, he]
  | owned line o l =>
    rw [release_owned he]
    exact (walk_entryWork (entry_lt he) l s).others j hj

/-- The owner's write, queued as its entry is released, stays in the part (R29, R33). -/
theorem finishAhead_tags {s : State} {i : Nat} {line : Addr} {o : HoldOwner} {l : List Parked} {w : HeldWrite}
    (he : s.entry i = .owned line o l) (ho : o.tags = [w.req.tag]) (a : HostTag) :
    (finishAhead i w s).tagCount a = s.tagCount a := by
  have hrelease := release_tags (s := enqueue w.req.item s) he a
  rw [tagCount_enqueue, hostTag_item, ho] at hrelease
  exact Nat.add_right_cancel hrelease

/-- A request parks behind an owner (R22, R26). -/
theorem park_tags {s : State} {i : Nat} {line : Addr} {o : HoldOwner} {l : List Parked} (he : s.entry i = .owned line o l)
    (x : Parked) (a : HostTag) : (park i x s).tagCount a = s.tagCount a + x.hostTag.toList.count a := by
  have hi := entry_lt he
  rw [park_eq x he, (setEntry_entryWork hi _ s).tags, tagCount_split s hi, he, tags_owned, tags_owned]
  have hlast : [x].filterMap Parked.hostTag = x.hostTag.toList := by cases hx : x.hostTag <;> simp [hx]
  rw [List.filterMap_append, hlast, List.count_append, List.count_append, List.count_append]
  omega

/-! ### The grants -/

theorem grantPath_linkTags (s : State) (a : HostTag) : (grantPath s).linkTags.count a = s.linkTags.count a := by
  unfold grantPath
  split
  · rfl
  next m rest hq =>
    simp only [State.linkTags, issue, hq, List.filterMap_append, List.count_append, List.filterMap_cons, List.filterMap_nil]
    cases m.hostTag with
    | none => simp
    | some b =>
      simp only [List.count_cons, List.count_nil]
      omega

theorem hostTag_drain {m : MemReq} (h : isDrainTag m.tag = true) : m.hostTag = none := by
  simp only [isDrainTag, Bool.and_eq_true, decide_eq_true_eq] at h
  rw [MemReq.hostTag, if_neg (by omega)]

theorem grantDrain_linkTags (s : State) (a : HostTag) : (grantDrain s).linkTags.count a = s.linkTags.count a := by
  have hoffer : ∀ t : State, (offerNext t).linkTags = t.linkTags := fun t => by
    simp only [State.linkTags, offerNext_mem, (offerNext_grantWork t).ingress]
  unfold grantDrain
  split
  next o t _ ht =>
    rw [hoffer]
    simp only [State.linkTags, mapItem, issue, List.filterMap_append, List.filterMap_cons,
      hostTag_drain (m := { kind := .write, tag := t, addr := o.addr, len := 64, data := o.data }) (freeDrainTag_isDrain ht)]
    simp
  · rfl

theorem grants_linkTags (a : HostTag) : ∀ (n : Nat) (s : State), (grants n s).linkTags.count a = s.linkTags.count a
  | 0, _ => rfl
  | n + 1, s => by
    unfold grants
    split
    · rfl
    · rw [grants_linkTags a n, grantPath_linkTags]
    · rw [grants_linkTags a n, grantDrain_linkTags]

/-- A granted request stays in the part: it goes from the path issue queue to the memory link (R144, R145). -/
theorem settle_tags (s : State) (a : HostTag) : (settle s).tagCount a = s.tagCount a := by
  refine tagCount_congr (fun b => ?_) (settle_grantWork s).hold a
  unfold settle
  rw [grants_linkTags, State.linkTags, State.linkTags, offerNext_mem, (offerNext_grantWork s).ingress]

/-! ### A tag that stops being outstanding -/

theorem count_filterMap_hostTag (l : List Outstanding) (a : HostTag) :
    (l.filterMap fun o => o.req.hostTag).count a = l.countP fun o => o.req.hostTag == some a := by
  rw [List.count, List.countP_filterMap]
  congr 1
  funext o
  cases o.req.hostTag <;> rfl

theorem hostTag_eq_some {m : MemReq} {a : HostTag} : m.hostTag = some a ↔ m.tag = a.setWidth 8 := by
  have ha := a.isLt
  unfold MemReq.hostTag
  constructor
  · intro h
    split at h
    next hlt =>
      rw [← Option.some.inj h]
      apply BitVec.eq_of_toNat_eq
      simp only [BitVec.toNat_setWidth]
      omega
    · simp at h
  · intro h
    have hlt : m.tag.toNat < 64 := by
      rw [h, BitVec.toNat_setWidth]
      omega
    rw [if_pos hlt, h]
    simp

/-- A response takes the outstanding requests of its tag out of the part, and no other request (R146). -/
theorem closeTag_tags (tag : MemTag) (s : State) (a : HostTag) :
    (closeTag tag s).tagCount a + (if tag = a.setWidth 8 then s.mem.outstanding.countP (fun o => o.req.hostTag == some a) else 0)
      = s.tagCount a := by
  have hcount : (closeTag tag s).mem.outstanding.countP (fun o => o.req.hostTag == some a) +
      (if tag = a.setWidth 8 then s.mem.outstanding.countP (fun o => o.req.hostTag == some a) else 0) =
      s.mem.outstanding.countP fun o => o.req.hostTag == some a := by
    simp only [closeTag, List.countP_filter]
    split
    next htag =>
      rw [List.countP_eq_zero.2, Nat.zero_add]
      intro o _
      simp [hostTag_eq_some, ← htag]
    next htag =>
      refine List.countP_congr fun o _ => ?_
      simp only [Bool.and_eq_true, beq_iff_eq, bne_iff_ne, hostTag_eq_some]
      exact ⟨fun h => h.1, fun h => ⟨h, fun ht => htag (ht.symm.trans h)⟩⟩
  simp only [tagCount_eq_sum, State.linkTags, List.count_append, count_filterMap_hostTag, closeTag_entry, closeTag_ingress]
  have hqueue : (closeTag tag s).mem.queue = s.mem.queue := rfl
  rw [hqueue]
  omega

end Sys2Proof.Machine
end

section
/-! The host law through every operation: the records and slot releases, the resolution, the rollback engine, the drain, the
links, and so every command (R136, R137, R139). -/

namespace Sys2Proof.Machine

/-! ### The law by its counts -/

/-- The host law's share of the host link: every tag counts in the part as often as the host link has it, at most once, and
the credits are the rest of 16 (R136, R137). -/
structure State.TagLaw (s : State) : Prop where
  counts : ∀ a, s.tagCount a = s.host.inPart.count a
  nodup : s.host.inPart.Nodup
  credits : s.host.credit + s.host.inPart.length = 16

/-- The host law's share of the ring-slot arbiter: its list names SLOT_WAIT entries, each once (R32, R54). -/
structure State.SlotsWait (s : State) : Prop where
  nodup : s.ring.slotList.Nodup
  waits : ∀ i ∈ s.ring.slotList, (s.entry i).isSlotWait = true

theorem hostLaw_iff {s : State} : s.HostLaw ↔ s.TagLaw ∧ s.SlotsWait := by
  constructor
  · rintro ⟨hperm, hnodup, hcredit, hslots, hwaits⟩
    exact ⟨⟨fun a => hperm.count_eq a, hnodup, hcredit⟩, hslots, hwaits⟩
  · rintro ⟨⟨hcounts, hnodup, hcredit⟩, hslots, hwaits⟩
    exact ⟨List.perm_iff_count.2 hcounts, hnodup, hcredit, hslots, hwaits⟩

section
variable {s t : State}

theorem State.TagLaw.of_tags (h : s.TagLaw) (htags : ∀ a, t.tagCount a = s.tagCount a) (hhost : t.host.inPart = s.host.inPart)
    (hcredit : t.host.credit = s.host.credit) : t.TagLaw :=
  ⟨fun a => by rw [htags, hhost]; exact h.counts a, by rw [hhost]; exact h.nodup, by rw [hhost, hcredit]; exact h.credits⟩

/-- A request that is answered leaves the part, and its credit returns (R136). -/
theorem State.TagLaw.answered {tag : HostTag} (h : s.TagLaw) (htags : ∀ a, t.tagCount a + [tag].count a = s.tagCount a)
    (hhost : t.host.inPart = s.host.inPart.erase tag) (hcredit : t.host.credit = s.host.credit + 1) : t.TagLaw := by
  have hmem : tag ∈ s.host.inPart := by
    have hself := htags tag
    rw [h.counts, List.count_singleton_self] at hself
    exact List.count_pos_iff.1 (by omega)
  have hlen := List.length_erase_of_mem hmem
  have hpos := List.length_pos_of_mem hmem
  have hcredits := h.credits
  refine ⟨fun a => ?_, hhost ▸ h.nodup.erase tag, by rw [hhost, hcredit]; omega⟩
  have ha := htags a
  rw [h.counts] at ha
  rw [hhost, List.count_erase]
  simp only [List.count_singleton, beq_iff_eq] at ha ⊢
  omega

/-- The law reads the ingress queue, the memory link, the entries, the host's credits and tags, and the ring-slot arbiter's
list only. -/
theorem hostLaw_congr (h : s.HostLaw) (hhost : t.host.inPart = s.host.inPart) (hcredit : t.host.credit = s.host.credit)
    (hin : t.ingress.queue = s.ingress.queue) (hmem : t.mem = s.mem) (hhold : t.hold = s.hold)
    (hslots : t.ring.slotList = s.ring.slotList) : t.HostLaw := by
  obtain ⟨htags, hnodup, hwaits⟩ := hostLaw_iff.1 h
  refine hostLaw_iff.2 ⟨htags.of_tags (tagCount_congr (fun a => by simp only [State.linkTags, hin, hmem]) hhold) hhost hcredit,
    by rw [hslots]; exact hnodup, fun i hi => ?_⟩
  rw [entry_congr hhold]
  exact hwaits i (hslots ▸ hi)

/-- Requests move within the part, and no entry of the ring-slot arbiter's list is touched. -/
theorem hostLaw_moved (h : s.HostLaw) (hhost : t.host = s.host) (hring : t.ring.slotList = s.ring.slotList)
    (htags : ∀ a, t.tagCount a = s.tagCount a) (hwaits : ∀ i, (s.entry i).isSlotWait = true → (t.entry i).isSlotWait = true) :
    t.HostLaw := by
  obtain ⟨hlaw, hnodup, hslots⟩ := hostLaw_iff.1 h
  exact hostLaw_iff.2 ⟨hlaw.of_tags htags (by rw [hhost]) (by rw [hhost]), hring ▸ hnodup,
    fun i hi => hwaits i (hslots i (hring ▸ hi))⟩

theorem reading_not_slot {i : Nat} {line : Addr} {w : HeldWrite} {l : List Parked} (h : s.HostLaw)
    (he : s.entry i = .owned line (.reading w) l) : i ∉ s.ring.slotList := by
  intro hi
  have hwait := (hostLaw_iff.1 h).2.waits i hi
  rw [he] at hwait
  cases hwait

end

/-! ### Records and slot releases -/

/-- `t` comes from `s` by records joining the ring, by counts, and by releases of slot waits: every request stays in the part,
and the hold table is as before unless all slot waits have ended. -/
structure SlotWork (s t : State) : Prop where
  host : t.host = s.host
  tags : ∀ a, t.tagCount a = s.tagCount a
  slots : t.ring.slotList = [] ∨ t.ring.slotList = s.ring.slotList ∧ t.hold = s.hold
  others : ∀ i ∉ s.ring.slotList, t.entry i = s.entry i

namespace SlotWork

theorem refl (s : State) : SlotWork s s := ⟨rfl, fun _ => rfl, .inr ⟨rfl, rfl⟩, fun _ _ => rfl⟩

theorem trans {s t u : State} (h : SlotWork s t) (k : SlotWork t u) : SlotWork s u := by
  refine ⟨k.host.trans h.host, fun a => (k.tags a).trans (h.tags a), ?_, fun i hi => ?_⟩
  · rcases k.slots with hk | ⟨hk, hhold⟩
    · exact .inl hk
    · rw [hk, hhold]
      exact h.slots
  · refine (k.others i fun hmem => ?_).trans (h.others i hi)
    rcases h.slots with hs | ⟨hs, -⟩
    · simp [hs] at hmem
    · exact hi (hs ▸ hmem)

/-- A change that none of these fields takes part in. -/
theorem of_same {s t : State} (hhost : t.host = s.host) (hin : t.ingress = s.ingress) (hmem : t.mem = s.mem)
    (hhold : t.hold = s.hold) (hslots : t.ring.slotList = s.ring.slotList) : SlotWork s t :=
  ⟨hhost, tagCount_congr (fun a => by simp only [State.linkTags, hin, hmem]) hhold, .inr ⟨hslots, hhold⟩,
    fun _ _ => entry_congr hhold _⟩

theorem hostLaw {s t : State} (h : SlotWork s t) (hs : s.HostLaw) : t.HostLaw := by
  obtain ⟨hlaw, hnodup, hwaits⟩ := hostLaw_iff.1 hs
  refine hostLaw_iff.2 ⟨hlaw.of_tags h.tags (by rw [h.host]) (by rw [h.host]), ?_⟩
  rcases h.slots with hnone | ⟨hslots, hhold⟩
  · exact ⟨by rw [hnone]; exact List.nodup_nil, fun i hi => by simp [hnone] at hi⟩
  · refine ⟨hslots ▸ hnodup, fun i hi => ?_⟩
    rw [entry_congr hhold]
    exact hwaits i (hslots ▸ hi)

end SlotWork

/-- A slot wait's release keeps its request in the part, and touches no entry that is not listed (R32, R55, R56). -/
theorem releaseSlots_moves (b : Bool) : ∀ (l : List Nat) (s : State),
    (∀ a, (releaseSlots b l s).tagCount a = s.tagCount a) ∧ ∀ i ∉ l, (releaseSlots b l s).entry i = s.entry i
  | [], s => ⟨fun _ => rfl, fun _ _ => rfl⟩
  | i :: rest, s => by
    have hgap : ∀ t : State, (∀ a, t.tagCount a = s.tagCount a) ∧ (∀ j ≠ i, t.entry j = s.entry j) →
        (∀ a, (releaseSlots b rest t).tagCount a = s.tagCount a) ∧
          ∀ j ∉ i :: rest, (releaseSlots b rest t).entry j = s.entry j := by
      rintro t ⟨htags, hothers⟩
      obtain ⟨hrest, hentry⟩ := releaseSlots_moves b rest t
      refine ⟨fun a => (hrest a).trans (htags a), fun j hj => ?_⟩
      rw [List.mem_cons, not_or] at hj
      exact (hentry j hj.2).trans (hothers j hj.1)
    have hcount : (∀ a, State.tagCount (if b then { s with ring := { s.ring with gap := saturate (s.ring.gap + 1) } } else s) a =
        s.tagCount a) ∧
        ∀ j, State.entry (if b then { s with ring := { s.ring with gap := saturate (s.ring.gap + 1) } } else s) j = s.entry j := by
      cases b <;> exact ⟨fun _ => rfl, fun _ => rfl⟩
    obtain ⟨htags, hentry⟩ := hcount
    unfold releaseSlots
    dsimp only
    split
    next he =>
      refine hgap _ ⟨fun a => (finishAhead_tags he rfl a).trans (htags a), fun j hj => ?_⟩
      exact (release_others hj).trans (hentry j)
    all_goals exact hgap _ ⟨htags, fun j _ => hentry j⟩

theorem releaseSlots_slotWork (b : Bool) (s : State) : SlotWork s (releaseSlots b s.ring.slotList s) := by
  obtain ⟨htags, hothers⟩ := releaseSlots_moves b s.ring.slotList s
  have hdoes := releaseSlots_does b s.ring.slotList s
  exact ⟨hdoes.host, htags, .inl (by rw [hdoes.ring]), hothers⟩

theorem drainStop_same (s : State) : drainStop s = { s with drain := (drainStop s).drain } := by
  unfold drainStop
  split
  · split <;> rfl
  · rfl

theorem stopSession_slotWork (r : StopReason) (s : State) : SlotWork s (stopSession r s) := by
  have hstop : SlotWork s { s with session := { s.session with state := .stopped, stopReason := some r } } :=
    .of_same rfl rfl rfl rfl rfl
  refine (hstop.trans (releaseSlots_slotWork false _)).trans ?_
  rw [stopSession, drainStop_same]
  exact .of_same rfl rfl rfl rfl rfl

section
variable (s : State)

theorem raise_slotWork (e : Event) : SlotWork s (raise e s) := .of_same rfl rfl rfl rfl rfl

theorem exhaust_slotWork : SlotWork s (exhaust s) := (raise_slotWork s _).trans (stopSession_slotWork ..)

theorem pushRec_slotWork (discard : Bool) (body : RecBody) (time : Time) : SlotWork s (pushRec discard body time s) := by
  rw [pushRec_eq]
  exact .of_same rfl rfl rfl rfl rfl

theorem appendRec_slotWork (discard : Bool) (body : RecBody) (time : Time) : SlotWork s (appendRec discard body time s) := by
  unfold appendRec
  split
  · exact (pushRec_slotWork ..).trans (exhaust_slotWork _)
  · exact pushRec_slotWork ..

theorem appendGap_slotWork (n : Nat) : SlotWork s (appendGap n s) := by
  have hzero : SlotWork s { s with ring := { s.ring with gap := 0 } } := .of_same rfl rfl rfl rfl rfl
  unfold appendGap
  exact hzero.trans (appendRec_slotWork ..)

theorem appendSkip_slotWork (body : RecBody) (time : Time) : SlotWork s (appendSkip body time s) := by
  unfold appendSkip
  split
  · exact .of_same rfl rfl rfl rfl rfl
  split
  · exact appendRec_slotWork ..
  split
  · exact appendGap_slotWork ..
  dsimp only
  split
  · exact (appendGap_slotWork ..).trans (appendRec_slotWork ..)
  · exact appendGap_slotWork ..

theorem appendHold_slotWork (d : Draft) : SlotWork s (appendHold d s).1 := by
  unfold appendHold
  split
  · exact raise_slotWork ..
  split
  · exact appendRec_slotWork ..
  dsimp only
  split
  · split
    · exact appendGap_slotWork ..
    · exact (appendGap_slotWork ..).trans (appendRec_slotWork ..)
  · exact appendGap_slotWork ..

theorem appendArmed_slotWork (body : RecBody) (time : Time) : SlotWork s (appendArmed body time s) := by
  unfold appendArmed
  split
  · exact SlotWork.refl s
  · exact appendRec_slotWork ..

theorem appendFired_slotWork (body : RecBody) (time : Time) : SlotWork s (appendFired body time s) := by
  have hpost : SlotWork s { pushRec false body time s with session :=
      { (pushRec false body time s).session with post := (pushRec false body time s).session.post + 1 } } :=
    (pushRec_slotWork ..).trans (.of_same rfl rfl rfl rfl rfl)
  unfold appendFired
  dsimp only
  split
  · exact hpost.trans (exhaust_slotWork _)
  split
  · exact hpost.trans (.of_same rfl rfl rfl rfl rfl)
  · exact hpost

theorem appendRefused_slotWork (info : WriteInfo) : SlotWork s (appendRefused info s) := by
  unfold appendRefused
  split
  · exact appendSkip_slotWork ..
  · exact appendArmed_slotWork ..
  · exact appendFired_slotWork ..
  all_goals exact SlotWork.refl s

theorem appendWrite_slotWork (d : Draft) : SlotWork s (appendWrite d s).1 := by
  unfold appendWrite
  split
  · split
    · exact appendHold_slotWork ..
    · exact appendSkip_slotWork ..
  · exact appendArmed_slotWork ..
  · exact appendFired_slotWork ..
  all_goals exact SlotWork.refl s

theorem fire_slotWork (c : Cause) : SlotWork s (fire c s) := by
  have hmarked : SlotWork s (fireMarked c s) := .of_same rfl rfl rfl rfl rfl
  rw [fire_eq]
  split
  · split
    · exact hmarked.trans (raise_slotWork ..)
    · exact hmarked.trans (exhaust_slotWork _)
  · exact hmarked

theorem takeCount_slotWork : SlotWork s (takeCount s) := by
  have hseqr : ∀ q : Sequencer, SlotWork s { s with seqr := q } := fun _ => .of_same rfl rfl rfl rfl rfl
  unfold takeCount
  split
  · exact hseqr _
  split
  · exact hseqr _
  · exact (hseqr _).trans (fire_slotWork ..)

theorem countStep_slotWork (b : Bool) : SlotWork s (countStep b s) := by
  unfold countStep
  split
  · exact takeCount_slotWork s
  · exact SlotWork.refl s

end

/-! ### The ring-slot arbiter -/

section
variable {s : State} {i : Nat} {line : Addr} {w : HeldWrite} {l : List Parked}

/-- With the session RUNNING after it, an append has ended no slot wait (R47). -/
theorem appendRec_running {discard : Bool} {body : RecBody} {time : Time}
    (h : (appendRec discard body time s).session.state = .running) :
    (appendRec discard body time s).ring.slotList = s.ring.slotList := by
  by_cases hlast : s.ring.nextSeq = lastSeq
  · rw [appendRec_of_eq hlast, stopSession_session] at h
    cases h
  · rw [appendRec_of_ne hlast, pushRec_ring]

/-- The write of an entry that is no slot wait of the list is queued, and its entry released. -/
theorem finishAhead_hostLaw {o : HoldOwner} (h : s.HostLaw) (he : s.entry i = .owned line o l) (ho : o.tags = [w.req.tag])
    (hi : i ∉ s.ring.slotList) : (finishAhead i w s).HostLaw := by
  obtain ⟨hlaw, hnodup, hwaits⟩ := hostLaw_iff.1 h
  have hwork := finishAhead_holdWork i w s
  refine hostLaw_iff.2 ⟨hlaw.of_tags (finishAhead_tags he ho) (by rw [hwork.host]) (by rw [hwork.host]),
    by rw [hwork.ring]; exact hnodup, fun j hj => ?_⟩
  rw [hwork.ring] at hj
  rw [finishAhead, release_others fun hji : j = i => hi (hji ▸ hj)]
  exact hwaits j hj

/-- The oldest slot wait leaves the list, then its write is recorded and queued (R54). -/
theorem serveSlot_hostLaw {rest : List Nat} {old : Option (List Byte)} {d : Draft} (h : s.HostLaw)
    (hlist : s.ring.slotList = i :: rest) (he : s.entry i = .owned line (.slotWait w old d) l) :
    (serveSlot i w d rest s).HostLaw := by
  obtain ⟨hlaw, hnodup, hwaits⟩ := hostLaw_iff.1 h
  rw [hlist] at hnodup
  obtain ⟨hi, hrest⟩ := List.nodup_cons.1 hnodup
  have hshort : State.HostLaw { s with ring := { s.ring with slotList := rest } } :=
    hostLaw_iff.2 ⟨hlaw.of_tags (fun _ => rfl) rfl rfl, hrest, fun j hj => hwaits j (hlist ▸ List.mem_cons_of_mem _ hj)⟩
  have hwork := appendRec_slotWork { s with ring := { s.ring with slotList := rest } } false d.body d.time
  refine finishAhead_hostLaw (hwork.hostLaw hshort) ((hwork.others i hi).trans he) rfl fun hmem => ?_
  rcases hwork.slots with hnone | ⟨hsame, -⟩
  · simp [hnone] at hmem
  · rw [hsame] at hmem
    exact hi hmem

theorem serveSlot_running {d : Draft} {rest : List Nat} (h : (serveSlot i w d rest s).session.state = .running) :
    (serveSlot i w d rest s).ring.slotList = rest := by
  have hwork := finishAhead_holdWork i w (appendRec false d.body d.time { s with ring := { s.ring with slotList := rest } })
  have hstate := congrArg Session.state hwork.session
  have hlist := congrArg Ring.slotList hwork.ring
  exact hlist.trans (appendRec_running (hstate.symm.trans h))

end

theorem serveList_hostLaw : ∀ (l : List Nat) {s : State}, s.HostLaw →
    (s.session.state = .running → s.ring.slotList = l) → (serveList l s).HostLaw
  | [], _, h, _ => h
  | i :: rest, s, h, hlist => by
    unfold serveList
    split
    next hrun =>
      have hlist := hlist hrun.1
      split
      next he =>
        split
        · exact serveList_hostLaw rest (serveSlot_hostLaw h hlist he) serveSlot_running
        · have hgap := appendGap_slotWork s s.ring.gap
          dsimp only
          split
          next hrun =>
            have hhold := appendGap_running_hold hrun.1
            have hslots : (appendGap s.ring.gap s).ring.slotList = i :: rest :=
              (appendRec_running (s := { s with ring := { s.ring with gap := 0 } }) hrun.1).trans hlist
            exact serveList_hostLaw rest (serveSlot_hostLaw (hgap.hostLaw h) hslots ((entry_congr hhold i).trans he))
              serveSlot_running
          · exact hgap.hostLaw h
      all_goals exact h
    · exact h

theorem serveSlots_hostLaw {s : State} (h : s.HostLaw) : (serveSlots s).HostLaw := serveList_hostLaw _ h fun _ => rfl

/-! ### Resolution -/

section
variable {s : State} {i : Nat} {line : Addr} {w : HeldWrite} {l : List Parked}

/-- A refused write is answered and released (R29, R30). -/
theorem refused_hostLaw {o : HoldOwner} (h : s.HostLaw) (he : s.entry i = .owned line o l) (ho : o.tags = [w.req.tag])
    (hi : i ∉ s.ring.slotList) : (release i (respond w.req.tag .refused [] s)).HostLaw := by
  obtain ⟨hlaw, hnodup, hwaits⟩ := hostLaw_iff.1 h
  have hwork := release_holdWork i (respond w.req.tag .refused [] s)
  refine hostLaw_iff.2 ⟨hlaw.answered (tag := w.req.tag) (fun a => ?_) (by rw [hwork.host, respond_host])
    (by rw [hwork.host, respond_host]), by rw [hwork.ring]; exact hnodup, fun j hj => ?_⟩
  · rw [← ho]
    exact release_tags (s := respond w.req.tag .refused [] s) he a
  · rw [hwork.ring] at hj
    rw [release_others fun hji : j = i => hi (hji ▸ hj)]
    exact hwaits j hj

theorem resolveRefused_hostLaw (h : s.HostLaw) (he : s.entry i = .owned line (.reading w) l) (old : Option (List Byte))
    (hits : Set16) : (resolveRefused i w old hits s).HostLaw := by
  have hi := reading_not_slot h he
  have finish : ∀ {t : State}, SlotWork s t → (release i (respond w.req.tag .refused [] t)).HostLaw := fun {t} ht => by
    have het := (ht.others i hi).trans he
    exact refused_hostLaw (ht.hostLaw h) het rfl (reading_not_slot (ht.hostLaw h) het)
  unfold resolveRefused
  refine finish (SlotWork.trans ?_ (countStep_slotWork ..))
  split
  · exact (raise_slotWork s _).trans (appendRefused_slotWork ..)
  · exact raise_slotWork s _

/-- A write that waits for a slot joins the list with its entry (R32). -/
theorem waitForSlot_hostLaw (h : s.HostLaw) (he : s.entry i = .owned line (.reading w) l) (old : Option (List Byte))
    (d : Draft) : (waitForSlot i line w old d l s).HostLaw := by
  have hlt := entry_lt he
  have hi := reading_not_slot h he
  obtain ⟨hlaw, hnodup, hwaits⟩ := hostLaw_iff.1 h
  refine hostLaw_iff.2 ⟨hlaw.of_tags (fun a => ?_) rfl rfl, ?_, fun j hj => ?_⟩
  · show (s.setEntry i (.owned line (.slotWait w old d) l)).tagCount a = s.tagCount a
    rw [(setEntry_entryWork hlt _ s).tags, tagCount_split s hlt, he]
    rfl
  · exact List.nodup_append.2 ⟨hnodup, List.nodup_singleton i, fun j hj k hk => by
      rw [List.mem_singleton.1 hk]
      exact fun hji => hi (hji ▸ hj)⟩
  · show ((s.setEntry i (.owned line (.slotWait w old d) l)).entry j).isSlotWait = true
    by_cases hji : i = j
    · rw [← hji, entry_setEntry_same s _ hlt]
      rfl
    · rw [entry_setEntry_other s _ hji]
      rcases List.mem_append.1 hj with hj | hj
      · exact hwaits j hj
      · exact absurd (List.mem_singleton.1 hj).symm hji

theorem resolveAhead_hostLaw (h : s.HostLaw) (he : s.entry i = .owned line (.reading w) l) (old : Option (List Byte))
    (hits : Set16) : (resolveAhead i line w old l hits s).HostLaw := by
  have hi := reading_not_slot h he
  have finish : ∀ {t : State}, SlotWork s t → (finishAhead i w t).HostLaw := fun {t} ht => by
    have het := (ht.others i hi).trans he
    exact finishAhead_hostLaw (ht.hostLaw h) het rfl (reading_not_slot (ht.hostLaw h) het)
  unfold resolveAhead
  dsimp only
  split
  · have happend := appendWrite_slotWork s { time := s.time.counter, info := recordInfo w (s.recordSet hits) old }
    split
    next t ht =>
      rw [ht] at happend
      exact waitForSlot_hostLaw (happend.hostLaw h) ((happend.others i hi).trans he) ..
    next t ht =>
      rw [ht] at happend
      exact finish (happend.trans (countStep_slotWork ..))
  · exact finish (countStep_slotWork ..)

theorem resolve_hostLaw (h : s.HostLaw) (he : s.entry i = .owned line (.reading w) l) (old : Option (List Byte)) :
    (resolve i line w old l s).HostLaw := by
  unfold resolve
  dsimp only
  split
  · exact resolveRefused_hostLaw h he ..
  · exact resolveAhead_hostLaw h he ..

end

end Sys2Proof.Machine
end

section
/-! The host law at every step: the rollback engine, the drain, the responses, the commands of the port, and every command
(R136, R137, R139). -/

namespace Sys2Proof.Machine

/-! ### The rollback engine -/

section
variable {s : State}

theorem raise_hostLaw (h : s.HostLaw) (e : Event) : (raise e s).HostLaw := (raise_slotWork s e).hostLaw h

theorem offerFault_hostLaw (h : s.HostLaw) (k : FaultKind) (p : FaultPort) (t : MemTag) (a : Option Addr) :
    (offerFault k p t a s).HostLaw := by
  rw [offerFault_eq]
  exact hostLaw_congr h rfl rfl rfl rfl rfl rfl

theorem hostLaw_rollback (h : s.HostLaw) (r : Rollback) : State.HostLaw { s with rollback := r } :=
  hostLaw_congr h rfl rfl rfl rfl rfl rfl

theorem endRollback_hostLaw (h : s.HostLaw) (r : RbResult) : (endRollback r s).HostLaw :=
  raise_hostLaw (hostLaw_rollback h _) _

/-- A restore is no host request (R108, R140). -/
theorem queueRestore_hostLaw (h : s.HostLaw) : (queueRestore s).HostLaw := by
  have hwork := queueRestore_holdWork s
  exact hostLaw_moved h hwork.host (by rw [hwork.ring]) (tagCount_congr (queueRestore_linkTags s) (queueRestore_hold s))
    fun i hi => by rwa [entry_congr (queueRestore_hold s)]

/-- The entry that the engine holds is no slot wait, and no request is its owner (R19, R36). -/
theorem releaseChecking_hostLaw (h : s.HostLaw) : (releaseChecking s).HostLaw := by
  unfold releaseChecking
  split
  next i hfind =>
    obtain ⟨-, hchecking, -⟩ := findEntry_eq_some hfind
    obtain ⟨line, l, he⟩ : ∃ line l, s.entry i = .owned line .checking l := by
      cases he : s.entry i with
      | free => simp [he, HoldEntry.isChecking] at hchecking
      | owned line o l =>
        cases o with
        | checking => exact ⟨line, l, rfl⟩
        | reading | slotWait => simp [he, HoldEntry.isChecking] at hchecking
    have hwork := release_holdWork i s
    refine hostLaw_moved h hwork.host (by rw [hwork.ring]) (release_tags he) fun j hj => ?_
    rwa [release_others]
    rintro rfl
    simp [he, HoldEntry.isSlotWait] at hj
  · exact h

end

/-- Work on an entry that is no slot wait touches no slot wait. -/
theorem EntryWork.slotWaits {i : Nat} {tags : List HostTag} {s t : State} (h : EntryWork i tags s t)
    (hi : (s.entry i).isSlotWait = false) (j : Nat) (hj : (s.entry j).isSlotWait = true) :
    (t.entry j).isSlotWait = true := by
  rwa [h.others]
  rintro rfl
  rw [hi] at hj
  cases hj

section
variable {s : State} {i : Nat}

/-- An item that parks leaves the state of its entry (R26). -/
theorem park_slotWaits (x : Parked) {j : Nat} (hj : (s.entry j).isSlotWait = true) :
    ((park i x s).entry j).isSlotWait = true := by
  cases he : s.entry i with
  | free => simpa [park, he] using hj
  | owned line o l =>
    rw [park_eq x he]
    by_cases hij : i = j
    · subst hij
      rw [he] at hj
      rw [entry_setEntry_same s _ (entry_lt he)]
      exact hj
    · rwa [entry_setEntry_other s _ hij]

/-- The engine holds a FREE entry for a check (R36, R105). -/
theorem holdForCheck_hostLaw (h : s.HostLaw) (hi : i < 8) (he : s.entry i = .free) (line : Addr) :
    (holdForCheck i line [] s).HostLaw := by
  have hwork := holdForCheck_holdWork i line [] s
  have hentry := holdForCheck_entryWork hi line [] s
  refine hostLaw_moved h hwork.host (by rw [hwork.ring]) (fun a => ?_) (hentry.slotWaits (by rw [he]; rfl))
  rw [hentry.tags, tagCount_split s hi, he]
  rfl

/-- A claim is no request, wherever it waits (R36, R104). -/
theorem claimLine_hostLaw (h : s.HostLaw) (line : Addr) : (claimLine line s).HostLaw := by
  have hwork := claimLine_holdWork line s
  cases howner : s.ownerOf line with
  | some i =>
    obtain ⟨o, l, he⟩ := ownerOf_eq_some howner
    rw [claimLine_owned howner] at hwork ⊢
    exact hostLaw_moved h hwork.host (by rw [hwork.ring])
      (park_tags (s := { s with rollback := { s.rollback with state := .claiming } }) he _)
      fun j hj => park_slotWaits (s := { s with rollback := { s.rollback with state := .claiming } }) _ hj
  | none =>
    cases hfree : s.freeEntry with
    | some i =>
      obtain ⟨hi, he⟩ := freeEntry_eq_some hfree
      by_cases hm : s.rollback.mode = .force
      · rw [claimLine_force howner hfree hm]
        exact queueRestore_hostLaw h
      · rw [claimLine_check howner hfree hm]
        exact holdForCheck_hostLaw h hi he line
    | none =>
      rw [claimLine_waits howner hfree] at hwork ⊢
      exact hostLaw_moved h hwork.host (by rw [hwork.ring]) (fun _ => rfl) fun _ hj => hj

end

theorem visit_hostLaw : ∀ (n : Nat) {s : State}, s.HostLaw → (visit n s).HostLaw
  | 0, s, h => by
    unfold visit
    dsimp only
    split
    · exact claimLine_hostLaw h _
    · exact endRollback_hostLaw (hostLaw_rollback h _) .done
  | n + 1, s, h => by
    unfold visit
    split
    · exact claimLine_hostLaw h _
    · exact visit_hostLaw n (hostLaw_rollback h _)

/-! ### What an answer reads and changes -/

/-- What the host's answer changes: the credit, the tags in the part, and what was sent (R136, R147). -/
theorem hostResponded_does (m : MemReq) (st : MemStatus) (data : List Byte) (s : State) :
    ∃ msgs recs pairs, hostResponded m st data s = { s with
      host := { s.host with
        credit := s.host.credit + 1, inPart := s.host.inPart.erase (m.tag.setWidth 6), sent := msgs }
      ring := { s.ring with recs := recs, outcomeMap := pairs } } := by
  unfold hostResponded setOutcome
  split
  · split <;> exact ⟨_, _, _, rfl⟩
  · split <;> exact ⟨_, _, _, rfl⟩

theorem responseFree_mem (m : MemReq) (st : MemStatus) (data : List Byte) (s : State) :
    (responseFree m st data s).mem = s.mem := by
  unfold responseFree useFree
  repeat' split
  all_goals rfl

section
variable {s : State} (h : s.HostLaw)
include h

theorem advance_hostLaw : (advance s).HostLaw := by
  unfold advance
  split
  · exact endRollback_hostLaw h _
  · exact visit_hostLaw _ (hostLaw_rollback h _)

theorem conflict_hostLaw : (conflict s).HostLaw := by
  have hreleased := releaseChecking_hostLaw (hostLaw_rollback h { s.rollback with conflicts := s.rollback.conflicts + 1 })
  unfold conflict
  dsimp only
  split
  · exact advance_hostLaw hreleased
  · exact advance_hostLaw hreleased
  · exact endRollback_hostLaw hreleased _

theorem checkResponded_hostLaw (a : Addr) (st : MemStatus) (line : List Byte) : (checkResponded a st line s).HostLaw := by
  unfold checkResponded
  split
  · split
    · split
      · exact releaseChecking_hostLaw (queueRestore_hostLaw h)
      · exact conflict_hostLaw h
    · exact offerFault_hostLaw (endRollback_hostLaw (releaseChecking_hostLaw h) _) ..
  · exact endRollback_hostLaw h _
  all_goals exact h

theorem markRestored_hostLaw : (markRestored s).HostLaw := hostLaw_congr h rfl rfl rfl rfl rfl rfl

theorem restoreResponded_hostLaw (a : Addr) (st : MemStatus) : (restoreResponded a st s).HostLaw := by
  unfold restoreResponded
  split
  · split
    · exact advance_hostLaw (markRestored_hostLaw h)
    · exact offerFault_hostLaw (endRollback_hostLaw h _) ..
  · split
    · exact endRollback_hostLaw (markRestored_hostLaw h) _
    · exact endRollback_hostLaw (offerFault_hostLaw h ..) _
  all_goals exact h

/-- A withdrawal takes claims out of the hold table, and no request (R37). -/
theorem withdrawClaim_hostLaw : (withdrawClaim s).HostLaw := by
  have hentry : ∀ i, ((withdrawClaim s).entry i).tags = (s.entry i).tags ∧
      ((withdrawClaim s).entry i).isSlotWait = (s.entry i).isSlotWait := fun i => by
    cases he : s.entry i with
    | free => rw [withdrawClaim_free he]; exact ⟨rfl, rfl⟩
    | owned line o l =>
      have hhosts : (l.filter fun x => !x.isClaim).filterMap Parked.hostTag = l.filterMap Parked.hostTag := by
        rw [List.filterMap_filter]
        refine List.filterMap_congr fun x _ => ?_
        cases x <;> rfl
      rw [withdrawClaim_owned he, tags_owned, tags_owned, hhosts]
      exact ⟨rfl, rfl⟩
  refine hostLaw_moved h rfl rfl (fun a => ?_) fun i hi => by rwa [(hentry i).2]
  have hlinks : (withdrawClaim s).linkTags = s.linkTags := rfl
  simp only [tagCount_eq_sum, hlinks, (hentry _).1]

theorem endEarly_hostLaw (why : RbPending) : (endEarly why s).HostLaw := by
  unfold endEarly
  split
  · exact h
  · exact endRollback_hostLaw (withdrawClaim_hostLaw h) _
  · exact releaseChecking_hostLaw (hostLaw_rollback h _)
  · exact hostLaw_rollback h _
  · split
    · exact h
    · exact hostLaw_rollback h _

/-! ### The drain and the end of an event -/

theorem hostLaw_drain (d : Drain) : State.HostLaw { s with drain := d } := hostLaw_congr h rfl rfl rfl rfl rfl rfl

theorem settle_hostLaw : (settle s).HostLaw := by
  have hgrant := settle_grantWork s
  exact hostLaw_moved h hgrant.host (by rw [hgrant.ring]) (settle_tags s) fun i hi => by rwa [entry_congr hgrant.hold]

theorem drainQuiesce_hostLaw : (drainQuiesce s).HostLaw := by
  unfold drainQuiesce
  split
  · split
    · split <;> exact hostLaw_drain h _
    · exact hostLaw_drain h _
    all_goals exact h
  · exact h

theorem retireAll_hostLaw : (retireAll s).HostLaw := by
  have hretire : (retire s.drain.inFlight s).HostLaw := by
    obtain ⟨k, items, rest, -, hr, -⟩ := retire_does s.drain.inFlight s rfl
    rw [hr]
    exact hostLaw_congr h rfl rfl rfl rfl rfl rfl
  refine serveSlots_hostLaw ?_
  unfold raiseIf
  split
  · exact raise_hostLaw hretire _
  · exact hretire

theorem drainResponded_hostLaw (o : Outstanding) (st : MemStatus) : (drainResponded o st s).HostLaw := by
  unfold drainResponded
  split
  · split
    · exact drainQuiesce_hostLaw h
    · exact drainQuiesce_hostLaw (retireAll_hostLaw (hostLaw_drain h _))
  · have hfault := offerFault_hostLaw (raise_hostLaw h .drainFault) .drainFault .memory o.req.tag (some o.req.addr)
    dsimp only
    split
    · exact drainQuiesce_hostLaw hfault
    · exact drainQuiesce_hostLaw (hostLaw_drain (hostLaw_drain hfault _) _)

/-! ### Responses -/

theorem prereadResponded_hostLaw (i : Nat) (st : MemStatus) (data : List Byte) : (prereadResponded i st data s).HostLaw := by
  unfold prereadResponded
  split
  next he =>
    split
    · exact resolve_hostLaw h he _
    · refine resolve_hostLaw (offerFault_hostLaw (raise_hostLaw h _) ..) ?_ _
      rw [offerFault_eq]
      exact he
  all_goals exact h

/-- A tag of the part's own that stops being outstanding is no host request's (R140). -/
theorem closeTag_hostLaw {tag : MemTag} (htag : 64 ≤ tag.toNat) : (closeTag tag s).HostLaw := by
  refine hostLaw_moved h rfl rfl (fun a => ?_) fun _ hi => hi
  have hcount := closeTag_tags tag s a
  have ha := a.isLt
  rw [if_neg, Nat.add_zero] at hcount
  · exact hcount
  · rintro rfl
    rw [BitVec.toNat_setWidth] at htag
    omega

/-- A host tag that stops being outstanding takes its one request out of the part (R136, R146). -/
theorem closeTag_host_tags {o : Outstanding} (ho : o ∈ s.mem.outstanding) (htag : o.req.tag.toNat < 64) (a : HostTag) :
    (closeTag o.req.tag s).tagCount a + [(o.req.tag.setWidth 6 : HostTag)].count a = s.tagCount a := by
  obtain ⟨hlaw, -⟩ := hostLaw_iff.1 h
  have hcount := closeTag_tags o.req.tag s a
  rw [List.count_singleton]
  by_cases ha : o.req.tag = a.setWidth 8
  · have hone : s.tagCount a ≤ 1 := by
      rw [hlaw.counts]
      exact List.nodup_iff_count_le_one.1 hlaw.nodup a
    have hpos : 0 < s.mem.outstanding.countP fun x => x.req.hostTag == some a :=
      List.countP_pos_iff.2 ⟨o, ho, by simpa using hostTag_eq_some.2 ha⟩
    rw [if_pos ha] at hcount
    have hself : (o.req.tag.setWidth 6 : HostTag) = a := by rw [ha]; simp
    simp only [hself, beq_self_eq_true, if_true]
    omega
  · rw [if_neg ha] at hcount
    have hother : (o.req.tag.setWidth 6 : HostTag) ≠ a := by
      rintro rfl
      refine ha (BitVec.eq_of_toNat_eq ?_)
      simp only [BitVec.toNat_setWidth]
      omega
    simpa [hother] using hcount

theorem hostAnswered_hostLaw {o : Outstanding} (ho : o ∈ s.mem.outstanding) (htag : o.req.tag.toNat < 64) (st : MemStatus)
    (data : List Byte) : (hostResponded o.req st data (closeTag o.req.tag s)).HostLaw := by
  obtain ⟨hlaw, hnodup, hwaits⟩ := hostLaw_iff.1 h
  obtain ⟨msgs, recs, pairs, hdoes⟩ := hostResponded_does o.req st data (closeTag o.req.tag s)
  rw [hdoes]
  exact hostLaw_iff.2 ⟨hlaw.answered (closeTag_host_tags h ho htag) rfl rfl, hnodup, hwaits⟩

theorem ownerResponded_hostLaw {o : Outstanding} (ho : o ∈ s.mem.outstanding) (st : MemStatus) (data : List Byte) :
    (ownerResponded o st data (closeTag o.req.tag s)).HostLaw := by
  by_cases hhost : o.req.tag.toNat < 64
  · rw [ownerResponded_host hhost]
    exact hostAnswered_hostLaw h ho hhost st data
  have hclosed := closeTag_hostLaw h (Nat.le_of_not_lt hhost)
  unfold ownerResponded
  rw [if_neg hhost]
  split
  · exact prereadResponded_hostLaw hclosed ..
  split
  · split
    · exact checkResponded_hostLaw hclosed ..
    · exact restoreResponded_hostLaw hclosed ..
  · exact drainResponded_hostLaw hclosed ..

theorem useFree_hostLaw (n : Nat) (data : List Byte) : (useFree n data s).HostLaw := by
  unfold useFree
  split
  · exact h
  · exact hostLaw_congr h rfl rfl rfl rfl rfl rfl

theorem routeResponse_hostLaw (tag : MemTag) (st : MemStatus) (data : List Byte) : (routeResponse tag st data s).HostLaw := by
  unfold routeResponse
  split
  · exact h
  split
  · exact offerFault_hostLaw (raise_hostLaw h _) ..
  next o ho =>
    have hfree : (responseFree o.req st data s).HostLaw := by
      unfold responseFree
      split
      · exact useFree_hostLaw h ..
      all_goals exact h
    have htag : o.req.tag = tag := by simpa using List.find?_some ho
    have hmem : o ∈ (responseFree o.req st data s).mem.outstanding := by
      rw [responseFree_mem]
      exact List.mem_of_find?_eq_some ho
    subst htag
    exact settle_hostLaw (ownerResponded_hostLaw hfree hmem ..)

/-! ### Requests and their classification -/

theorem violation_hostLaw (r : HostReq) : (violation r s).HostLaw := offerFault_hostLaw (raise_hostLaw h _) ..

/-- An accepted request takes a credit and joins the part; a violation brings none into it (R136, R137). -/
theorem arrive_hostLaw (r : HostReq) : (arrive r s).HostLaw := by
  unfold arrive
  split
  · exact violation_hostLaw h r
  next hcredit =>
    split
    · have hsent : State.HostLaw { s with host := { s.host with sent := s.host.sent ++ [.creditReturn] } } :=
        hostLaw_congr h rfl rfl rfl rfl rfl rfl
      exact violation_hostLaw hsent r
    next hused =>
      obtain ⟨⟨hcounts, hnodup, hcredits⟩, hslots⟩ := hostLaw_iff.1 h
      have hnew : r.tag ∉ s.host.inPart := by simpa using hused
      refine hostLaw_iff.2 ⟨⟨fun a => ?_, ?_, ?_⟩, hslots.nodup, hslots.waits⟩
      · have ha := hcounts a
        simp only [tagCount_eq_sum, State.linkTags, List.map_append, List.count_append, List.map_cons, List.map_nil] at ha ⊢
        rw [← ha]
        simp only [State.entry]
        omega
      · exact List.nodup_append.2 ⟨hnodup, List.nodup_singleton _, fun x hx y hy => by
          rw [List.mem_singleton.1 hy]
          exact fun hxy => hnew (hxy ▸ hx)⟩
      · simp only [List.length_append, List.length_singleton]
        omega

/-- The head stays in the part wherever the classifier puts it, and leaves the part where it is answered (R22, R138). -/
theorem classifyHead_hostLaw {r : HostReq} {rest : List HostReq} (hq : s.ingress.queue = r :: rest) :
    (classifyHead r s).HostLaw := by
  have hpop := tagCount_popHead hq
  by_cases hm : malformed r = true
  · obtain ⟨hlaw, hnodup, hwaits⟩ := hostLaw_iff.1 h
    unfold classifyHead
    rw [if_pos hm, violation, offerFault_eq]
    exact hostLaw_iff.2 ⟨hlaw.answered hpop rfl rfl, hnodup, hwaits⟩
  rw [Bool.not_eq_true] at hm
  cases howner : s.ownerOf (lineOf r.addr) with
  | some i =>
    obtain ⟨o, l, he⟩ := ownerOf_eq_some howner
    have hwork := park_holdWork i (.host r (s.candidates r)) (popHead s)
    rw [classifyHead_parks hm howner]
    refine hostLaw_moved h hwork.host (by rw [hwork.ring]; rfl) (fun a => ?_) fun j hj => park_slotWaits (s := popHead s) _ hj
    exact (park_tags (s := popHead s) he _ a).trans (hpop a)
  | none =>
    by_cases hc : s.candidates r = 0
    · rw [classifyHead_unwatched hm howner hc]
      refine hostLaw_moved h rfl rfl (fun a => ?_) fun _ hj => hj
      rw [tagCount_enqueue, hostTag_item]
      exact hpop a
    cases hfree : s.freeEntry with
    | some i =>
      obtain ⟨hi, he⟩ := freeEntry_eq_some hfree
      have hwork := takeEntry_holdWork i { req := r, cands := s.candidates r } (popHead s) hi
      have hentry := takeEntry_entryWork hi { req := r, cands := s.candidates r } (popHead s)
      have he' : (popHead s).entry i = .free := he
      rw [classifyHead_takes hm howner hc hfree]
      refine hostLaw_moved h hwork.host (by rw [hwork.ring]; rfl) (fun a => ?_)
        fun j hj => hentry.slotWaits (by rw [he']; rfl) j hj
      rw [hentry.tags, ← hpop a, tagCount_split (popHead s) hi, he']
      rfl
    | none =>
      rw [classifyHead_waits hm howner hc hfree]
      exact hostLaw_moved h rfl rfl (fun _ => rfl) fun _ hj => hj

/-! ### Commands of the port -/

theorem clearSessionWork_hostLaw {dc : State → State} (hd : ∀ {t : State}, t.HostLaw → (dc t).HostLaw) :
    (clearSessionWork dc s).HostLaw := by
  have hreleased := (releaseSlots_slotWork false s).hostLaw h
  exact hd (endEarly_hostLaw (s := seqIdle { releaseSlots false s.ring.slotList s with
    ring := (releaseSlots false s.ring.slotList s).ring.cleared, session := Session.reset })
    (hostLaw_congr hreleased rfl rfl rfl rfl rfl rfl) _)

theorem clearScope_hostLaw (scope : ClearScope) : (clearScope scope s).HostLaw := by
  cases scope with
  | session =>
    exact settle_hostLaw (clearSessionWork_hostLaw h fun ht => by rw [drainClearSession_same]; exact hostLaw_drain ht _)
  | windows | events => exact hostLaw_congr h rfl rfl rfl rfl rfl rfl
  | all =>
    have hreset : State.HostLaw { s with
        windows := Vector.replicate 16 Window.reset
        events := Events.reset
        time := TimeBase.reset
        engaged := false
        ring := { s.ring with policy := .skip, threshold := 256 }
        seqr := { s.seqr with stages := Vector.replicate 8 Stage.reset, length := 1 } } :=
      hostLaw_congr h rfl rfl rfl rfl rfl rfl
    exact settle_hostLaw (clearSessionWork_hostLaw hreset fun ht => by rw [drainClearAll_same]; exact hostLaw_drain ht _)

theorem runClear_hostLaw (args : List Byte) : (runClear args s).state.HostLaw := by
  unfold runClear
  split
  · exact clearScope_hostLaw h _
  · exact h

theorem toBypass_hostLaw : (toBypass s).HostLaw :=
  settle_hostLaw ((releaseSlots_slotWork true { s with engaged := false }).hostLaw (hostLaw_congr h rfl rfl rfl rfl rfl rfl))

theorem runSessionStart_hostLaw (args : List Byte) : (runSessionStart args s).state.HostLaw := by
  unfold runSessionStart
  split
  · exact h
  split
  · exact h
  split
  · exact h
  · rw [done_state]
    unfold startSession
    split
    · exact settle_hostLaw (hostLaw_congr h rfl rfl rfl rfl rfl rfl)
    · exact hostLaw_congr h rfl rfl rfl rfl rfl rfl

theorem runSessionStop_hostLaw : (runSessionStop s).state.HostLaw := by
  unfold runSessionStop
  split
  · exact settle_hostLaw ((stopSession_slotWork ..).hostLaw h)
  · exact h

theorem runSeqFire_hostLaw : (runSeqFire s).state.HostLaw := by
  unfold runSeqFire
  split
  · exact (fire_slotWork ..).hostLaw h
  · exact h

theorem runRingRelease_hostLaw (args : List Byte) : (runRingRelease args s).state.HostLaw := by
  unfold runRingRelease
  split
  · exact h
  split
  · exact h
  · exact settle_hostLaw (serveSlots_hostLaw (hostLaw_congr h rfl rfl rfl rfl rfl rfl))

theorem runRollbackStart_hostLaw (args : List Byte) : (runRollbackStart args s).state.HostLaw := by
  unfold runRollbackStart
  dsimp only
  split
  · exact h
  split
  · exact h
  split
  · exact h
  split
  · exact h
  split
  · exact h
  · exact settle_hostLaw (visit_hostLaw _ (hostLaw_rollback h _))

theorem runRollbackAbort_hostLaw : (runRollbackAbort s).state.HostLaw := by
  unfold runRollbackAbort
  split
  · exact h
  · exact settle_hostLaw (endEarly_hostLaw h _)

theorem runSpillSet_hostLaw (args : List Byte) : (runSpillSet args s).state.HostLaw := by
  unfold runSpillSet
  split
  · exact h
  split
  · exact h
  split
  · exact h
  · rw [done_state]
    unfold spillSet
    split
    · exact hostLaw_drain h _
    · exact settle_hostLaw (hostLaw_drain h _)

theorem runSpillConsume_hostLaw (args : List Byte) : (runSpillConsume args s).state.HostLaw := by
  unfold runSpillConsume
  dsimp only
  split
  · exact h
  · exact settle_hostLaw (hostLaw_drain h _)

theorem runDrainRestart_hostLaw : (runDrainRestart s).state.HostLaw := by
  unfold runDrainRestart
  split
  · exact settle_hostLaw (hostLaw_drain h _)
  all_goals exact h

theorem tickAll_hostLaw : (tickAll s).HostLaw := by
  have hstage : ∀ (t : TimeBase) (q : Sequencer), State.HostLaw { s with time := t, seqr := q } :=
    fun _ _ => hostLaw_congr h rfl rfl rfl rfl rfl rfl
  unfold tickAll seqTick
  split
  · exact h
  split
  · split
    · exact hstage _ _
    split
    · exact hstage _ _
    · exact raise_hostLaw (hstage _ _) _
  all_goals exact hstage _ _

theorem portFrame_hostLaw {code : Byte} {argc : Nat} {run : List Byte → State → Reply} {f : Frame}
    (hrun : ∀ t : State, t.HostLaw → (run f.args t).state.HostLaw) : (portFrame code argc run f s).HostLaw :=
  portFrame_preserves (P := State.HostLaw) (fun _ _ ht => hostLaw_congr ht rfl rfl rfl rfl rfl rfl) h hrun

end

/-! ### Every command -/

theorem reset_hostLaw : State.reset.HostLaw := lawsHoldAtReset.1

/-- Every command keeps the host law. -/
theorem exec_hostLaw {c : Instr} {s t : State} (hs : s.HostLaw) (h : exec c s = .next t) : t.HostLaw := by
  have next : ∀ {u : State}, u.HostLaw → (.next u : Host.Outcome State Fault Refusal) = .next t → t.HostLaw :=
    fun hu e => Host.Outcome.next.inj e ▸ hu
  have same : ∀ {u : State}, u.host.inPart = s.host.inPart → u.host.credit = s.host.credit →
      u.ingress.queue = s.ingress.queue → u.mem = s.mem → u.hold = s.hold → u.ring.slotList = s.ring.slotList → u.HostLaw :=
    hostLaw_congr hs
  cases c with
  | pinReset =>
    refine next ?_ h
    exact hostLaw_congr reset_hostLaw rfl rfl rfl rfl rfl rfl
  | resetNRelease => exact next (by split <;> exact same rfl rfl rfl rfl rfl rfl) h
  | hostCreditOffer => exact next (by split <;> exact same rfl rfl rfl rfl rfl rfl) h
  | emptyFrame => exact next (by split <;> exact same rfl rfl rfl rfl rfl rfl) h
  | readReq => exact next (by split <;> [exact hs; exact arrive_hostLaw hs _]) h
  | writeReq => exact next (by split <;> [exact hs; exact arrive_hostLaw (useFree_hostLaw hs ..) _]) h
  | creditAnnouncement =>
    refine next ?_ h
    split
    · exact hs
    · exact settle_hostLaw (hostLaw_moved hs rfl rfl (fun _ => rfl) fun _ hi => hi)
  | classification =>
    refine next ?_ h
    split
    · exact hs
    split
    · exact hs
    · exact hs
    next r rest hq _ => exact settle_hostLaw (classifyHead_hostLaw hs hq)
  | tick | stageExpiry => exact next (tickAll_hostLaw hs) h
  | prereadResponse | memoryResponse | checkReadResponse | restoreResponse | drainResponse | strayResponse =>
    exact next (routeResponse_hostLaw hs ..) h
  | clearSession | clearWindows | clearEvents | clearAll =>
    exact next (portFrame_hostLaw hs fun u hu => runClear_hostLaw hu _) h
  | bypass =>
    exact next (portFrame_hostLaw hs fun u hu => by rw [done_state]; split <;> [exact toBypass_hostLaw hu; exact hu]) h
  | sessionStart => exact next (portFrame_hostLaw hs fun u hu => runSessionStart_hostLaw hu _) h
  | sessionStop => exact next (portFrame_hostLaw hs fun u hu => runSessionStop_hostLaw hu) h
  | seqFire => exact next (portFrame_hostLaw hs fun u hu => runSeqFire_hostLaw hu) h
  | ringRelease => exact next (portFrame_hostLaw hs fun u hu => runRingRelease_hostLaw hu _) h
  | rollbackStart => exact next (portFrame_hostLaw hs fun u hu => runRollbackStart_hostLaw hu _) h
  | rollbackAbort => exact next (portFrame_hostLaw hs fun u hu => runRollbackAbort_hostLaw hu) h
  | spillSet => exact next (portFrame_hostLaw hs fun u hu => runSpillSet_hostLaw hu _) h
  | spillConsume => exact next (portFrame_hostLaw hs fun u hu => runSpillConsume_hostLaw hu _) h
  | drainRestart => exact next (portFrame_hostLaw hs fun u hu => runDrainRestart_hostLaw hu) h
  | winSet | winGet | winEnable | winDisable | seqSet | seqGet | seqLength | ringRead | holdRead =>
    refine next (portFrame_hostLaw hs fun u hu => ?_) h
    simp only [runWinSet, runWinGet, runWinEnabled, runSeqSet, runSeqGet, runSeqLength, runRingRead, runHoldRead]
    repeat' split
    all_goals exact hostLaw_congr hu rfl rfl rfl rfl rfl rfl
  | _ => exact next (portFrame_hostLaw hs fun u hu => hostLaw_congr hu rfl rfl rfl rfl rfl rfl) h

/-- Settles O52: a command keeps the law, and a period of REFCLK touches no request. -/
theorem hostCreditLawKept : Obligations.HostCreditLawKept := by
  intro s t hs h
  rcases step_cases h with rfl | ⟨c, rest, hc⟩
  · unfold refclkPeriod
    split
    · exact hs
    split
    · exact hostLaw_congr hs rfl rfl rfl rfl rfl rfl
    · exact tickAll_hostLaw hs
  · exact exec_hostLaw (s := { s with pending := rest }) hs hc

end Sys2Proof.Machine
end

section
/-! The laws of the memory credits: what every operation does to the memory link before the grants, and the laws at every step
(R141, R144, R145). -/

namespace Sys2Proof.Machine

/-! ### Work before the grants -/

/-- `t` comes from `s` by work that makes no grant: the credits and what is outstanding are as before, the path issue queue
has only grown, by items that carry no drain tag, and the drain's offer is as before or withdrawn. -/
structure PathWork (s t : State) : Prop where
  outstanding : t.mem.outstanding = s.mem.outstanding
  credit : t.mem.credit = s.mem.credit
  queued : ∃ l, t.mem.queue = s.mem.queue ++ l ∧ ∀ m ∈ l, isDrainTag m.tag = false
  offered : t.drain.offered = none ∨ t.drain.offered = s.drain.offered

namespace PathWork

theorem of_mem {s t : State} (hmem : t.mem = s.mem) (hoffered : t.drain.offered = none ∨ t.drain.offered = s.drain.offered) :
    PathWork s t := ⟨by rw [hmem], by rw [hmem], ⟨[], by simp [hmem]⟩, hoffered⟩

theorem refl (s : State) : PathWork s s := of_mem rfl (.inr rfl)

theorem trans {s t u : State} (h : PathWork s t) (k : PathWork t u) : PathWork s u where
  outstanding := k.outstanding.trans h.outstanding
  credit := k.credit.trans h.credit
  queued := by
    obtain ⟨l, hl, hd⟩ := h.queued
    obtain ⟨m, hm, he⟩ := k.queued
    exact ⟨l ++ m, by rw [hm, hl, List.append_assoc], fun x hx => (List.mem_append.1 hx).elim (hd x) (he x)⟩
  offered := by
    rcases k.offered with hk | hk
    · exact .inl hk
    · rw [hk]
      exact h.offered

end PathWork

theorem Drain.StopsTo.offered {d e : Drain} (h : d.StopsTo e) : e.offered = none ∨ e.offered = d.offered := by
  cases h with
  | same => exact .inr rfl
  | quiet | waiting => exact .inl rfl

section
variable {s t : State}

theorem HoldWork.pathWork (h : HoldWork s t) : PathWork s t :=
  ⟨h.outstanding, h.credit, h.queued, .inr (by rw [h.drain])⟩

theorem RbWork.pathWork (h : RbWork s t) (hwork : Work s t) : PathWork s t :=
  ⟨h.outstanding, hwork.credit, h.queued, .inr (by rw [h.drain])⟩

theorem RecWork.pathWork (h : RecWork s t) (hwork : Work s t) (hstop : s.drain.StopsTo t.drain) : PathWork s t :=
  ⟨h.outstanding, hwork.credit, h.queued, hstop.offered⟩

end

/-! ### Slot waits -/

/-- Slot waits happen in RUNNING only (R54). -/
def State.SlotsRun (s : State) : Prop := s.ring.slotList ≠ [] → s.session.state = .running

/-- All slot waits have ended, or their list is as before and a RUNNING session still runs. -/
def SlotsKept (s t : State) : Prop :=
  t.ring.slotList = [] ∨ t.ring.slotList = s.ring.slotList ∧ (s.session.state = .running → t.session.state = .running)

namespace SlotsKept

theorem of_eq {s t : State} (hring : t.ring.slotList = s.ring.slotList) (hsession : t.session = s.session) : SlotsKept s t :=
  .inr ⟨hring, by rw [hsession]; exact id⟩

theorem trans {s t u : State} (h : SlotsKept s t) (k : SlotsKept t u) : SlotsKept s u := by
  rcases k with hk | ⟨hk, hrunk⟩
  · exact .inl hk
  rcases h with hh | ⟨hh, hrunh⟩
  · exact .inl (hk.trans hh)
  · exact .inr ⟨hk.trans hh, hrunk ∘ hrunh⟩

theorem slotsRun {s t : State} (h : SlotsKept s t) (hs : s.SlotsRun) : t.SlotsRun := by
  intro hne
  rcases h with hnone | ⟨hsame, hrun⟩
  · exact absurd hnone hne
  · exact hrun (hs (hsame ▸ hne))

end SlotsKept

theorem SlotWork.slotsKept {s t : State} (h : SlotWork s t) (hs : s.session.state ≠ .running) : SlotsKept s t :=
  h.slots.imp_right fun hsame => ⟨hsame.1, fun hrun => absurd hrun hs⟩

section
variable (s : State)

theorem appendRec_slotsKept (discard : Bool) (body : RecBody) (time : Time) : SlotsKept s (appendRec discard body time s) := by
  by_cases hlast : s.ring.nextSeq = lastSeq
  · rw [appendRec_of_eq hlast]
    exact .inl (by rw [stopSession_ring])
  · rw [appendRec_of_ne hlast]
    exact .of_eq (by rw [pushRec_ring]) (pushRec_session ..)

theorem appendGap_slotsKept (n : Nat) : SlotsKept s (appendGap n s) :=
  appendRec_slotsKept { s with ring := { s.ring with gap := 0 } } ..

theorem appendSkip_slotsKept (body : RecBody) (time : Time) : SlotsKept s (appendSkip body time s) := by
  unfold appendSkip
  split
  · exact .of_eq rfl rfl
  split
  · exact appendRec_slotsKept ..
  split
  · exact appendGap_slotsKept ..
  dsimp only
  split
  · exact (appendGap_slotsKept ..).trans (appendRec_slotsKept ..)
  · exact appendGap_slotsKept ..

theorem appendHold_slotsKept (d : Draft) : SlotsKept s (appendHold d s).1 := by
  unfold appendHold
  split
  · exact .of_eq rfl rfl
  split
  · exact appendRec_slotsKept ..
  dsimp only
  split
  · split
    · exact appendGap_slotsKept ..
    · exact (appendGap_slotsKept ..).trans (appendRec_slotsKept ..)
  · exact appendGap_slotsKept ..

theorem appendRefused_slotsKept (info : WriteInfo) : SlotsKept s (appendRefused info s) := by
  by_cases hrun : s.session.state = .running
  · simp only [appendRefused, hrun]
    exact appendSkip_slotsKept ..
  · exact (appendRefused_slotWork s info).slotsKept hrun

theorem appendWrite_slotsKept (d : Draft) : SlotsKept s (appendWrite d s).1 := by
  by_cases hrun : s.session.state = .running
  · simp only [appendWrite, hrun]
    split
    · exact appendHold_slotsKept ..
    · exact appendSkip_slotsKept ..
  · exact (appendWrite_slotWork s d).slotsKept hrun

end

/-- A write counts in ARMED only, where no slot wait is (R54, R89). -/
theorem countStep_slotsKept {s t : State} {hits : Set16} (hwork : SlotWork s t) (hkept : SlotsKept s t) :
    SlotsKept s (countStep (s.counts hits) t) := by
  cases hcounts : s.counts hits with
  | false => simpa [countStep] using hkept
  | true =>
    refine (hwork.trans (countStep_slotWork t true)).slotsKept fun hrun => ?_
    simp [State.counts, hrun] at hcounts

section
variable {s : State} {i : Nat} {line : Addr} {w : HeldWrite} {l : List Parked}

theorem HoldWork.slotsRun {t u : State} (h : HoldWork t u) (ht : t.SlotsRun) : u.SlotsRun :=
  (SlotsKept.of_eq (by rw [h.ring]) h.session).slotsRun ht

theorem RbWork.slotsRun {t u : State} (h : RbWork t u) (ht : t.SlotsRun) : u.SlotsRun :=
  (SlotsKept.of_eq (by rw [h.ring]) h.session).slotsRun ht

/-- A write waits for a slot in RUNNING only (R53). -/
theorem appendWrite_waits_running {t : State} {d : Draft} (h : appendWrite d s = (t, true)) : t.session.state = .running := by
  unfold appendWrite at h
  split at h
  next hrun =>
    split at h
    · unfold appendHold at h
      split at h
      · rw [← (Prod.mk.inj h).1]
        exact hrun
      split at h
      · simp at h
      dsimp only at h
      split at h
      next hgap =>
        split at h
        · rw [← (Prod.mk.inj h).1]
          exact hgap
        · simp at h
      · simp at h
    · simp at h
  all_goals simp at h

theorem resolveRefused_slotsRun (h : s.SlotsRun) (old : Option (List Byte)) (hits : Set16) :
    (resolveRefused i w old hits s).SlotsRun := by
  have finish : ∀ {t : State}, SlotWork s t → SlotsKept s t →
      (release i (respond w.req.tag .refused [] (countStep (s.counts hits) t))).SlotsRun := fun hwork hkept =>
    (release_holdWork i _).slotsRun ((countStep_slotsKept hwork hkept).slotsRun h)
  have hraise := raise_slotWork s .refusal
  unfold resolveRefused
  dsimp only
  split
  · exact finish (hraise.trans (appendRefused_slotWork ..)) (appendRefused_slotsKept (raise .refusal s) _)
  · exact finish hraise (.of_eq rfl rfl)

theorem resolveAhead_slotsRun (h : s.SlotsRun) (old : Option (List Byte)) (hits : Set16) :
    (resolveAhead i line w old l hits s).SlotsRun := by
  have finish : ∀ {t : State}, SlotWork s t → SlotsKept s t → (finishAhead i w (countStep (s.counts hits) t)).SlotsRun :=
    fun hwork hkept => (finishAhead_holdWork i w _).slotsRun ((countStep_slotsKept hwork hkept).slotsRun h)
  unfold resolveAhead
  dsimp only
  split
  · have hwork := appendWrite_slotWork s { time := s.time.counter, info := recordInfo w (s.recordSet hits) old }
    have hkept := appendWrite_slotsKept s { time := s.time.counter, info := recordInfo w (s.recordSet hits) old }
    split
    next t ht =>
      have hrun := appendWrite_waits_running ht
      exact fun _ => hrun
    next t ht =>
      rw [ht] at hwork hkept
      exact finish hwork hkept
  · exact finish (SlotWork.refl s) (.of_eq rfl rfl)

theorem resolve_slotsRun (h : s.SlotsRun) (old : Option (List Byte)) : (resolve i line w old l s).SlotsRun := by
  unfold resolve
  dsimp only
  split
  · exact resolveRefused_slotsRun h _ _
  · exact resolveAhead_slotsRun h _ _

theorem serveSlot_slotsRun (hrun : s.session.state = .running) (d : Draft) (rest : List Nat) :
    (serveSlot i w d rest s).SlotsRun := by
  have hshort : State.SlotsRun { s with ring := { s.ring with slotList := rest } } := fun _ => hrun
  exact (finishAhead_holdWork i w _).slotsRun ((appendRec_slotsKept _ false d.body d.time).slotsRun hshort)

end

theorem serveList_slotsRun : ∀ (l : List Nat) {s : State}, s.SlotsRun → (serveList l s).SlotsRun
  | [], _, h => h
  | i :: rest, s, h => by
    unfold serveList
    split
    next hrun =>
      split
      · split
        · exact serveList_slotsRun rest (serveSlot_slotsRun hrun.1 _ _)
        · dsimp only
          split
          next hgap => exact serveList_slotsRun rest (serveSlot_slotsRun hgap.1 _ _)
          · exact (appendGap_slotsKept s _).slotsRun h
      all_goals exact h
    · exact h

/-! ### Resolution and responses -/

theorem resolve_pathWork (i : Nat) (line : Addr) (w : HeldWrite) (old : Option (List Byte)) (l : List Parked) (s : State) :
    PathWork s (resolve i line w old l s) := by
  unfold resolve
  dsimp only
  split
  · have hdoes := resolveRefused_does i w old (s.hitSet w old) s
    exact ⟨hdoes.outstanding, (resolveRefused_work ..).credit, hdoes.queued, (resolveRefused_stopsTo ..).offered⟩
  · exact (resolveAhead_recWork ..).pathWork (resolveAhead_work ..) (resolveAhead_stopsTo ..)

section
variable {s : State}

theorem offerFault_pathWork (k : FaultKind) (p : FaultPort) (t : MemTag) (a : Option Addr) :
    PathWork s (offerFault k p t a s) := by
  rw [offerFault_eq]
  exact .of_mem rfl (.inr rfl)

theorem offerFault_slotsRun (h : s.SlotsRun) (k : FaultKind) (p : FaultPort) (t : MemTag) (a : Option Addr) :
    (offerFault k p t a s).SlotsRun := by
  rw [offerFault_eq]
  exact h

theorem prereadResponded_pathWork (i : Nat) (st : MemStatus) (data : List Byte) :
    PathWork s (prereadResponded i st data s) := by
  have hraise : PathWork s (raise .prereadFault s) := .of_mem rfl (.inr rfl)
  unfold prereadResponded
  split
  · split
    · exact resolve_pathWork ..
    · exact (hraise.trans (offerFault_pathWork ..)).trans (resolve_pathWork ..)
  all_goals exact PathWork.refl s

theorem prereadResponded_slotsRun (h : s.SlotsRun) (i : Nat) (st : MemStatus) (data : List Byte) :
    (prereadResponded i st data s).SlotsRun := by
  unfold prereadResponded
  split
  · split
    · exact resolve_slotsRun h _
    · exact resolve_slotsRun (offerFault_slotsRun (s := raise .prereadFault s) h _ _ _ _) _
  all_goals exact h

theorem drain_pathWork {d : Drain} (h : d.offered = none ∨ d.offered = s.drain.offered) : PathWork s { s with drain := d } :=
  .of_mem rfl h

theorem drainQuiesce_same_but_drain (s : State) : drainQuiesce s = { s with drain := (drainQuiesce s).drain } := by
  unfold drainQuiesce
  split
  · split
    · split <;> rfl
    all_goals rfl
  · rfl

theorem drainQuiesce_pathWork : PathWork s (drainQuiesce s) := by
  have hoffered : (drainQuiesce s).drain.offered = none ∨ (drainQuiesce s).drain.offered = s.drain.offered := by
    unfold drainQuiesce
    split
    · split
      · split <;> exact .inl rfl
      · exact .inl rfl
      all_goals exact .inr rfl
    · exact .inr rfl
  rw [drainQuiesce_same_but_drain]
  exact drain_pathWork hoffered

theorem drainQuiesce_slotsRun (h : s.SlotsRun) : (drainQuiesce s).SlotsRun := by
  rw [drainQuiesce_same_but_drain]
  exact h

theorem serveSlots_pathWork : PathWork s (serveSlots s) :=
  (serveSlots_recWork s).pathWork (serveSlots_work s) (serveSlots_stopsTo s)

theorem serveSlots_slotsRun (h : s.SlotsRun) : (serveSlots s).SlotsRun := serveList_slotsRun _ h

/-- Retirement before the freed slots are offered: no request, no offer and no slot wait changes (R124, R125). -/
theorem retire_raise_kept (b : Bool) :
    PathWork s (raiseIf b .spillWatermark (retire s.drain.inFlight s)) ∧
      (s.SlotsRun → (raiseIf b .spillWatermark (retire s.drain.inFlight s)).SlotsRun) := by
  obtain ⟨k, items, rest, -, hr, -⟩ := retire_does s.drain.inFlight s rfl
  rw [hr]
  cases b <;> exact ⟨.of_mem rfl (.inr rfl), id⟩

theorem retireAll_pathWork : PathWork s (retireAll s) := (retire_raise_kept _).1.trans serveSlots_pathWork

theorem retireAll_slotsRun (h : s.SlotsRun) : (retireAll s).SlotsRun := serveSlots_slotsRun ((retire_raise_kept _).2 h)

theorem mapItem_pathWork (k : Nat) (g : DrainItem → DrainItem) : PathWork s (mapItem k g s) := .of_mem rfl (.inr rfl)

theorem drainResponded_pathWork (o : Outstanding) (st : MemStatus) : PathWork s (drainResponded o st s) := by
  unfold drainResponded
  split
  · split
    · exact drainQuiesce_pathWork
    · exact ((mapItem_pathWork ..).trans retireAll_pathWork).trans drainQuiesce_pathWork
  · have hraise : PathWork s (raise .drainFault s) := .of_mem rfl (.inr rfl)
    have hfault := hraise.trans (offerFault_pathWork .drainFault .memory o.req.tag (some o.req.addr))
    dsimp only
    split
    · exact hfault.trans drainQuiesce_pathWork
    · exact ((hfault.trans (mapItem_pathWork ..)).trans (drain_pathWork (.inl rfl))).trans drainQuiesce_pathWork

theorem drainResponded_slotsRun (h : s.SlotsRun) (o : Outstanding) (st : MemStatus) : (drainResponded o st s).SlotsRun := by
  unfold drainResponded
  split
  · split
    · exact drainQuiesce_slotsRun h
    · exact drainQuiesce_slotsRun (retireAll_slotsRun (s := mapItem _ _ s) h)
  · have hfault := offerFault_slotsRun (s := raise .drainFault s) h .drainFault .memory o.req.tag (some o.req.addr)
    dsimp only
    split
    · exact drainQuiesce_slotsRun hfault
    · exact drainQuiesce_slotsRun hfault

theorem ownerResponded_pathWork (o : Outstanding) (st : MemStatus) (data : List Byte) :
    PathWork s (ownerResponded o st data s) := by
  unfold ownerResponded
  split
  · obtain ⟨msgs, recs, pairs, hdoes⟩ := hostResponded_does o.req st data s
    rw [hdoes]
    exact .of_mem rfl (.inr rfl)
  split
  · exact prereadResponded_pathWork ..
  split
  · split
    · exact (checkResponded_rbWork ..).pathWork (checkResponded_work ..)
    · exact (restoreResponded_rbWork ..).pathWork (restoreResponded_work ..)
  · exact drainResponded_pathWork ..

theorem ownerResponded_slotsRun (h : s.SlotsRun) (o : Outstanding) (st : MemStatus) (data : List Byte) :
    (ownerResponded o st data s).SlotsRun := by
  unfold ownerResponded
  split
  · obtain ⟨msgs, recs, pairs, hdoes⟩ := hostResponded_does o.req st data s
    rw [hdoes]
    exact h
  split
  · exact prereadResponded_slotsRun h _ _ _
  split
  · split
    · exact (checkResponded_rbWork ..).slotsRun h
    · exact (restoreResponded_rbWork ..).slotsRun h
  · exact drainResponded_slotsRun h _ _

/-- The classifier queues a host request or a pre-read, or nothing (R22, R23). -/
theorem classifyHead_pathWork (r : HostReq) : PathWork s (classifyHead r s) := by
  have hpop : PathWork s (popHead s) := .of_mem rfl (.inr rfl)
  unfold classifyHead
  split
  · rw [violation, offerFault_eq]
    exact .of_mem rfl (.inr rfl)
  split
  · exact hpop.trans (park_holdWork ..).pathWork
  split
  · exact hpop.trans (enqueue_holdWork _ _ (item_not_drain r)).pathWork
  split
  next i hfree => exact hpop.trans (takeEntry_holdWork i _ _ (freeEntry_eq_some hfree).1).pathWork
  · exact .of_mem rfl (.inr rfl)

theorem classifyHead_slotsRun (h : s.SlotsRun) (r : HostReq) : (classifyHead r s).SlotsRun := by
  have hpop : (popHead s).SlotsRun := h
  unfold classifyHead
  split
  · rw [violation, offerFault_eq]
    exact hpop
  split
  · exact (park_holdWork ..).slotsRun hpop
  split
  · exact hpop
  split
  next i hfree => exact (takeEntry_holdWork i _ _ (freeEntry_eq_some hfree).1).slotsRun hpop
  · exact h

/-! ### Stops and clears -/

theorem stopSession_pathWork (r : StopReason) : PathWork s (stopSession r s) :=
  (stopSession_recWork r s).pathWork (stopSession_work r s) (stopSession_stopsTo s r)

theorem stopSession_slotsRun (r : StopReason) : (stopSession r s).SlotsRun := fun hne => by
  rw [stopSession_ring] at hne
  exact absurd rfl hne

/-- A clear's drain work withdraws the offer or leaves the drain (R132, R133). -/
theorem drainClearSession_pathWork : PathWork s (drainClearSession s) := by
  have hworking : ∀ e, (drainClearWorking e s).drain.offered = none := fun e => by
    unfold drainClearWorking drainClearing
    split <;> rfl
  have hoffered : (drainClearSession s).drain.offered = none ∨ (drainClearSession s).drain.offered = s.drain.offered := by
    unfold drainClearSession
    split
    · exact .inr rfl
    · exact .inr rfl
    · exact .inl rfl
    · exact .inl (hworking _)
    · exact .inl (hworking _)
    · split
      · exact .inl rfl
      · exact .inl (hworking _)
  rw [drainClearSession_same]
  exact drain_pathWork hoffered

theorem drainClearAll_pathWork : PathWork s (drainClearAll s) := by
  have hoffered : (drainClearAll s).drain.offered = none := by
    unfold drainClearAll drainClearing
    split <;> rfl
  rw [drainClearAll_same]
  exact drain_pathWork (.inl hoffered)

/-- A clear queues the writes of the slot waits and what the early end of a rollback queues; no slot wait is left (R63). -/
theorem clearSessionWork_kept {dc : State → State} (hd : ∀ t, PathWork t (dc t))
    (hsame : ∀ t, dc t = { t with drain := (dc t).drain }) :
    PathWork s (clearSessionWork dc s) ∧ (clearSessionWork dc s).SlotsRun := by
  obtain ⟨t, ht, hwork⟩ := clearSessionWork_does dc s
  have hend := endEarly_rbWork .cleared t
  have hcleared : PathWork s (sessionCleared s) := .of_mem rfl (.inr rfl)
  rw [ht]
  refine ⟨(hcleared.trans hwork.pathWork).trans ((hend.pathWork (endEarly_work ..)).trans (hd _)), ?_⟩
  have hnone : (sessionCleared s).SlotsRun := fun hne => absurd rfl hne
  rw [hsame]
  exact hend.slotsRun (hwork.slotsRun hnone)

end

end Sys2Proof.Machine
end

section
/-! The memory-credit laws at every step: the end of an event, the commands of the port, and every command (R141, R144, R145). -/

namespace Sys2Proof.Machine

/-! ### The end of an event -/

/-- What the grant law asks of a state before the grants (R54, R122, R144). -/
structure State.Grantable (s : State) : Prop where
  queued : ∀ m ∈ s.mem.queue, isDrainTag m.tag = false
  tagFree : s.drain.offered ≠ none → s.drainTags.length < 4
  slots : s.SlotsRun

/-- `t` keeps each of the two laws of the memory credits that `s` has. -/
structure LinksKept (s t : State) : Prop where
  credit : s.CreditLaw → t.CreditLaw
  grant : s.GrantLaw → t.GrantLaw

section
variable {s t : State}

theorem State.GrantLaw.grantable (h : s.GrantLaw) : s.Grantable := by
  obtain ⟨-, htag, hqueue, hslots⟩ := h
  exact ⟨hqueue, htag, hslots⟩

theorem LinksKept.refl (s : State) : LinksKept s s := ⟨id, id⟩

theorem LinksKept.trans {u : State} (h : LinksKept s t) (k : LinksKept t u) : LinksKept s u :=
  ⟨k.credit ∘ h.credit, k.grant ∘ h.grant⟩

theorem PathWork.creditLaw (h : PathWork s t) (hs : s.CreditLaw) : t.CreditLaw := by
  unfold State.CreditLaw
  rw [h.outstanding, h.credit]
  exact hs

theorem PathWork.grantable (h : PathWork s t) (hs : s.Grantable) (hslots : t.SlotsRun) : t.Grantable := by
  obtain ⟨l, hqueue, hl⟩ := h.queued
  refine ⟨fun m hm => ?_, fun hne => ?_, hslots⟩
  · rw [hqueue] at hm
    rcases List.mem_append.1 hm with hm | hm
    · exact hs.queued m hm
    · exact hl m hm
  · have htags : t.drainTags = s.drainTags := by simp only [State.drainTags, h.outstanding]
    rw [htags]
    rcases h.offered with hnone | hsame
    · exact absurd hnone hne
    · exact hs.tagFree (hsame ▸ hne)

theorem settle_creditLaw (h : s.CreditLaw) : (settle s).CreditLaw := by
  obtain ⟨hle, hmax⟩ := h
  unfold State.CreditLaw
  rw [(settle_grantWork s).credit]
  exact ⟨settle_outstanding_le hle, hmax⟩

/-- The grants at the end of an event bring the law back (R145). -/
theorem settle_grantLaw (h : s.Grantable) : (settle s).GrantLaw := by
  obtain ⟨hfull, hqueue, htag⟩ := settle_leaves_none h.queued h.tagFree
  have hgrant := settle_grantWork s
  refine ⟨hfull, htag, hqueue, ?_⟩
  rw [hgrant.ring, hgrant.session]
  exact h.slots

/-- An event whose work makes no grant and ends with the grants keeps the laws. -/
theorem PathWork.linksKept (h : PathWork s t) (hslots : s.SlotsRun → t.SlotsRun) : LinksKept s (settle t) :=
  ⟨fun hs => settle_creditLaw (h.creditLaw hs),
    fun hs => settle_grantLaw (h.grantable hs.grantable (hslots hs.grantable.slots))⟩

/-- An event that does not touch the memory link, nor readies a line, keeps the laws without a grant. -/
theorem LinksKept.of_mem (hmem : t.mem = s.mem) (hoffered : t.drain.offered = none ∨ t.drain.offered = s.drain.offered)
    (hslots : s.SlotsRun → t.SlotsRun) : LinksKept s t := by
  have hwork := PathWork.of_mem hmem hoffered
  refine ⟨hwork.creditLaw, fun hs => ?_⟩
  obtain ⟨hqueue, htag, hrun⟩ := hwork.grantable hs.grantable (hslots hs.grantable.slots)
  refine ⟨?_, htag, hqueue, hrun⟩
  rw [hmem]
  refine hs.1.imp_right fun hidle => ⟨hidle.1, ?_⟩
  rcases hoffered with hnone | hsame
  · exact hnone
  · exact hsame.trans hidle.2

/-- An event that touches none of the fields that the laws read keeps them. -/
theorem LinksKept.of_same (hmem : t.mem = s.mem) (hdrain : t.drain = s.drain) (hring : t.ring.slotList = s.ring.slotList)
    (hsession : t.session = s.session) : LinksKept s t :=
  .of_mem hmem (.inr (by rw [hdrain])) (SlotsKept.of_eq hring hsession).slotsRun

/-! ### Responses and credits -/

theorem drainTags_closeTag_le (tag : MemTag) (s : State) : (closeTag tag s).drainTags.length ≤ s.drainTags.length :=
  ((List.filter_sublist.map _).filter _).length_le

/-- A tag that stops being outstanding frees a credit, which the grants may use (R146). -/
theorem closeTag_creditLaw (tag : MemTag) (h : s.CreditLaw) : (closeTag tag s).CreditLaw :=
  ⟨(List.length_filter_le ..).trans h.1, h.2⟩

theorem closeTag_grantable (tag : MemTag) (h : s.Grantable) : (closeTag tag s).Grantable :=
  ⟨h.queued, fun hne => (drainTags_closeTag_le tag s).trans_lt (h.tagFree hne), h.slots⟩

theorem routeResponse_linksKept (tag : MemTag) (st : MemStatus) (data : List Byte) (s : State) :
    LinksKept s (routeResponse tag st data s) := by
  unfold routeResponse
  split
  · exact LinksKept.refl s
  split
  · unfold stray
    rw [offerFault_eq]
    exact .of_same rfl rfl rfl rfl
  next o _ =>
    have hfree : ∃ n, responseFree o.req st data s = { s with freeCount := n } := by
      unfold responseFree useFree
      repeat' split
      all_goals exact ⟨_, rfl⟩
    obtain ⟨n, hfree⟩ := hfree
    rw [hfree]
    have hwork := ownerResponded_pathWork (s := closeTag tag { s with freeCount := n }) o st
      (responseData o.req st data s.freeCount)
    refine ⟨fun hs => settle_creditLaw (hwork.creditLaw ?_), fun hs => settle_grantLaw (hwork.grantable ?_ ?_)⟩
    · exact closeTag_creditLaw (s := { s with freeCount := n }) tag hs
    · exact closeTag_grantable (s := { s with freeCount := n }) tag ⟨hs.grantable.queued, hs.grantable.tagFree, hs.grantable.slots⟩
    · exact ownerResponded_slotsRun (s := closeTag tag { s with freeCount := n }) hs.grantable.slots _ _ _

/-- The first announcement sets C, at most 32; nothing was outstanding before it (R141). -/
theorem announced_linksKept (n : Nat) (hcredit : s.mem.credit = 0) :
    LinksKept s (settle { s with mem := { s.mem with credit := min n 32 } }) := by
  refine ⟨fun hs => settle_creditLaw ⟨?_, Nat.min_le_right n 32⟩,
    fun hs => settle_grantLaw ⟨hs.grantable.queued, hs.grantable.tagFree, hs.grantable.slots⟩⟩
  have hle := hs.1
  rw [hcredit] at hle
  exact hle.trans (Nat.zero_le _)

theorem arrive_linksKept (r : HostReq) (s : State) : LinksKept s (arrive r s) := by
  unfold arrive violation
  split
  · rw [offerFault_eq]
    exact .of_same rfl rfl rfl rfl
  split
  · rw [offerFault_eq]
    exact .of_same rfl rfl rfl rfl
  · exact .of_same rfl rfl rfl rfl

theorem useFree_linksKept (n : Nat) (data : List Byte) (s : State) : LinksKept s (useFree n data s) := by
  unfold useFree
  split
  · exact LinksKept.refl s
  · exact .of_same rfl rfl rfl rfl

theorem tickAll_linksKept (s : State) : LinksKept s (tickAll s) := by
  unfold tickAll seqTick
  repeat' split
  all_goals exact .of_same rfl rfl rfl rfl

end

/-! ### Commands of the port -/

section
variable (s : State)

theorem runClear_linksKept (args : List Byte) : LinksKept s (runClear args s).state := by
  unfold runClear
  split
  next scope _ =>
    rw [done_state]
    cases scope with
    | session =>
      obtain ⟨hwork, hslots⟩ := clearSessionWork_kept (s := s) (fun t => drainClearSession_pathWork) drainClearSession_same
      exact hwork.linksKept fun _ => hslots
    | windows | events => exact .of_same rfl rfl rfl rfl
    | all =>
      have hkept : ∀ u, PathWork s u → LinksKept s (settle (clearSessionWork drainClearAll u)) := fun u hu => by
        obtain ⟨hwork, hslots⟩ := clearSessionWork_kept (s := u) (fun t => drainClearAll_pathWork) drainClearAll_same
        exact (hu.trans hwork).linksKept fun _ => hslots
      exact hkept { s with
        windows := Vector.replicate 16 Window.reset
        events := Events.reset
        time := TimeBase.reset
        engaged := false
        ring := { s.ring with policy := .skip, threshold := 256 }
        seqr := { s.seqr with stages := Vector.replicate 8 Stage.reset, length := 1 } } (.of_mem rfl (.inr rfl))
  · exact LinksKept.refl s

theorem toBypass_linksKept : LinksKept s (toBypass s) := by
  have hreleased := releaseSlots_does true s.ring.slotList { s with engaged := false }
  have hempty : ∀ r : Ring, PathWork s { s with engaged := false, ring := r } := fun _ => .of_mem rfl (.inr rfl)
  exact ((hempty _).trans hreleased.pathWork).linksKept fun _ => hreleased.slotsRun fun hne => absurd rfl hne

/-- A triggered session starts from IDLE, where no slot wait is (R54, R68). -/
theorem startSession_linksKept (hidle : s.session.state = .idle) (a : StartArgs) : LinksKept s (startSession a s) := by
  unfold startSession
  split
  · have hstart : ∀ u : State, u.mem = s.mem → u.drain.offered = s.drain.offered → PathWork s u :=
      fun u hmem hoffered => .of_mem hmem (.inr hoffered)
    refine PathWork.linksKept (hstart _ rfl rfl) fun _ _ => rfl
  · refine .of_mem rfl (.inr rfl) fun hs hne => ?_
    rw [hs hne] at hidle
    cases hidle

theorem runSessionStart_linksKept (args : List Byte) : LinksKept s (runSessionStart args s).state := by
  unfold runSessionStart
  split
  · exact LinksKept.refl s
  split
  · exact LinksKept.refl s
  next hidle =>
    split
    · exact LinksKept.refl s
    · exact startSession_linksKept s (by simpa using hidle) _

theorem runSessionStop_linksKept : LinksKept s (runSessionStop s).state := by
  unfold runSessionStop
  split
  · exact (stopSession_pathWork .command).linksKept fun _ => stopSession_slotsRun .command
  · exact LinksKept.refl s

/-- A fire comes in ARMED, where no slot wait is, so it queues nothing (R54, R73). -/
theorem runSeqFire_linksKept : LinksKept s (runSeqFire s).state := by
  unfold runSeqFire
  split
  next harmed =>
    rw [done_state]
    refine ⟨((fire_recWork .manual s).pathWork (fire_work ..) (fire_stopsTo ..)).creditLaw, fun hs => ?_⟩
    have hnone : s.ring.slotList = [] := by
      by_contra hne
      rw [hs.grantable.slots hne] at harmed
      cases harmed
    have hfire := fire_noRelease (s := s) (.inl hnone) .manual
    exact (LinksKept.of_mem hfire.mem (fire_stopsTo s .manual).offered fun _ hne => absurd (hfire.slots hnone) hne).grant hs
  · exact LinksKept.refl s

theorem runRingRelease_linksKept (args : List Byte) : LinksKept s (runRingRelease args s).state := by
  unfold runRingRelease
  split
  · exact LinksKept.refl s
  split
  · exact LinksKept.refl s
  · have hreleased : PathWork s (releaseThrough (argField args 0 4) s) := .of_mem rfl (.inr rfl)
    exact (hreleased.trans serveSlots_pathWork).linksKept fun hs =>
      serveSlots_slotsRun (s := releaseThrough (argField args 0 4) s) hs

theorem startRollback_linksKept (mode : RbMode) (first last : Nat) : LinksKept s (startRollback mode first last s) := by
  have hrollback : ∀ r : Rollback, PathWork s { s with rollback := r } := fun _ => .of_mem rfl (.inr rfl)
  have hvisit := visit_rbWork (last - first) { s with rollback := { s.rollback with
    mode := mode, first := first, cursor := last, result := .none, pendingResult := none, restored := 0, conflicts := 0
    skipped := 0 } }
  exact ((hrollback _).trans (hvisit.pathWork (visit_work ..))).linksKept fun hs => hvisit.slotsRun hs

theorem runRollbackStart_linksKept (args : List Byte) : LinksKept s (runRollbackStart args s).state := by
  unfold runRollbackStart
  dsimp only
  split
  · exact LinksKept.refl s
  split
  · exact LinksKept.refl s
  split
  · exact LinksKept.refl s
  split
  · exact LinksKept.refl s
  split
  · exact LinksKept.refl s
  · exact startRollback_linksKept s ..

theorem runRollbackAbort_linksKept : LinksKept s (runRollbackAbort s).state := by
  unfold runRollbackAbort
  split
  · exact LinksKept.refl s
  · have hend := endEarly_rbWork .aborted s
    exact (hend.pathWork (endEarly_work ..)).linksKept hend.slotsRun

theorem drain_linksKept {d : Drain} (h : d.offered = none ∨ d.offered = s.drain.offered) :
    LinksKept s (settle { s with drain := d }) := (drain_pathWork h).linksKept id

theorem runSpillSet_linksKept (args : List Byte) : LinksKept s (runSpillSet args s).state := by
  unfold runSpillSet
  split
  · exact LinksKept.refl s
  split
  · exact LinksKept.refl s
  split
  · exact LinksKept.refl s
  rw [done_state]
  unfold spillSet
  split
  · exact .of_mem rfl (.inl rfl) id
  · exact drain_linksKept s (.inl rfl)

theorem runSpillConsume_linksKept (args : List Byte) : LinksKept s (runSpillConsume args s).state := by
  unfold runSpillConsume
  dsimp only
  split
  · exact LinksKept.refl s
  · exact drain_linksKept s (.inr rfl)

theorem runDrainRestart_linksKept : LinksKept s (runDrainRestart s).state := by
  unfold runDrainRestart
  split
  · exact drain_linksKept s (.inr rfl)
  all_goals exact LinksKept.refl s

theorem portFrame_linksKept {code : Byte} {argc : Nat} {run : List Byte → State → Reply} {f : Frame}
    (h : ∀ t, LinksKept t (run f.args t).state) : LinksKept s (portFrame code argc run f s) :=
  portFrame_preserves (fun _ _ ht => ht.trans (.of_same rfl rfl rfl rfl)) (LinksKept.refl s) fun t ht => ht.trans (h t)

end

/-! ### Every command -/

/-- Every command keeps the laws of the memory credits. -/
theorem exec_linksKept {c : Instr} {s t : State} (h : exec c s = .next t) : LinksKept s t := by
  have next : ∀ {u : State}, LinksKept s u → (.next u : Host.Outcome State Fault Refusal) = .next t → LinksKept s t :=
    fun hu e => Host.Outcome.next.inj e ▸ hu
  cases c with
  | pinReset =>
    obtain ⟨-, hcredit, hgrant, -⟩ := lawsHoldAtReset
    refine next ?_ h
    exact ⟨fun _ => hcredit, fun _ => hgrant⟩
  | resetNRelease | hostCreditOffer | emptyFrame => exact next (by split <;> exact .of_same rfl rfl rfl rfl) h
  | readReq => exact next (by split <;> [exact LinksKept.refl s; exact arrive_linksKept ..]) h
  | writeReq =>
    exact next (by split <;> [exact LinksKept.refl s; exact (useFree_linksKept ..).trans (arrive_linksKept ..)]) h
  | creditAnnouncement =>
    refine next ?_ h
    split
    · exact LinksKept.refl s
    next hfirst => exact announced_linksKept _ (by by_contra hc; exact hfirst (by simp [hc]))
  | classification =>
    refine next ?_ h
    split
    · exact LinksKept.refl s
    split
    · exact LinksKept.refl s
    · exact LinksKept.refl s
    next r rest _ _ => exact (classifyHead_pathWork r).linksKept fun hs => classifyHead_slotsRun hs r
  | tick | stageExpiry => exact next (tickAll_linksKept s) h
  | prereadResponse | memoryResponse | checkReadResponse | restoreResponse | drainResponse | strayResponse =>
    exact next (routeResponse_linksKept ..) h
  | clearSession | clearWindows | clearEvents | clearAll => exact next (portFrame_linksKept s fun u => runClear_linksKept u _) h
  | bypass =>
    exact next (portFrame_linksKept s fun u => by
      rw [done_state]; split <;> [exact toBypass_linksKept u; exact LinksKept.refl u]) h
  | sessionStart => exact next (portFrame_linksKept s fun u => runSessionStart_linksKept u _) h
  | sessionStop => exact next (portFrame_linksKept s runSessionStop_linksKept) h
  | seqFire => exact next (portFrame_linksKept s runSeqFire_linksKept) h
  | ringRelease => exact next (portFrame_linksKept s fun u => runRingRelease_linksKept u _) h
  | rollbackStart => exact next (portFrame_linksKept s fun u => runRollbackStart_linksKept u _) h
  | rollbackAbort => exact next (portFrame_linksKept s runRollbackAbort_linksKept) h
  | spillSet => exact next (portFrame_linksKept s fun u => runSpillSet_linksKept u _) h
  | spillConsume => exact next (portFrame_linksKept s fun u => runSpillConsume_linksKept u _) h
  | drainRestart => exact next (portFrame_linksKept s runDrainRestart_linksKept) h
  | winSet | winGet | winEnable | winDisable | seqSet | seqGet | seqLength | ringRead | holdRead =>
    refine next (portFrame_linksKept s fun u => ?_) h
    simp only [runWinSet, runWinGet, runWinEnabled, runSeqSet, runSeqGet, runSeqLength, runRingRead, runHoldRead]
    repeat' split
    all_goals exact .of_same rfl rfl rfl rfl
  | _ => exact next (portFrame_linksKept s fun u => .of_same rfl rfl rfl rfl) h

/-- Settles O53: a command keeps both laws, and a period of REFCLK touches neither the memory link nor the drain. -/
theorem memoryCreditLawsKept : Obligations.MemoryCreditLawsKept := by
  have hstep : ∀ s t : State, step s = .next t → LinksKept s t := by
    intro s t h
    rcases step_cases h with rfl | ⟨c, rest, hc⟩
    · unfold refclkPeriod
      split
      · exact LinksKept.refl s
      split
      · exact .of_same rfl rfl rfl rfl
      · exact tickAll_linksKept s
    · have hexec := exec_linksKept hc
      exact ⟨hexec.credit, hexec.grant⟩
  exact ⟨fun s t hs h => (hstep s t h).credit hs, fun s t hs h => (hstep s t h).grant hs⟩

end Sys2Proof.Machine
end

section
/-! The pins and the links: reset and release, the start of the links, a request's arrival, the malformed request at the head,
the host's answer, and the stray response. -/

namespace Sys2Proof.Machine

/-! ### Reset and the start of the links -/

/-- While RESET_N is asserted every command but the two of the pin answers its state (R151, R152, R162; log entry 4). -/
theorem exec_held {c : Instr} {s : State} (h : s.resetHeld = true) (hreset : c ≠ .pinReset)
    (hrelease : ∀ b, c ≠ .resetNRelease b) : exec c s = .next s := by
  have route : ∀ tag st data, routeResponse tag st data s = s := fun _ _ _ => by simp [routeResponse, h]
  have tick : tickAll s = s := by simp [tickAll, h]
  cases c with
  | pinReset => exact absurd rfl hreset
  | resetNRelease b => exact absurd rfl (hrelease b)
  | readReq | writeReq | classification | hostCreditOffer | creditAnnouncement | emptyFrame =>
    exact congrArg Host.Outcome.next (by simp [h])
  | tick | stageExpiry => exact congrArg Host.Outcome.next tick
  | prereadResponse | memoryResponse | checkReadResponse | restoreResponse | drainResponse | strayResponse =>
    exact congrArg Host.Outcome.next (route _ _ _)
  | _ => exact congrArg Host.Outcome.next (portFrame_held h)

/-- Settles O3: what the two commands of the pin do is their definition, and the others are `exec_held`. -/
theorem pinResetAndRelease : Obligations.PinResetAndRelease := by
  refine ⟨fun _ => rfl, fun b s h => ?_, fun b s h => ?_, fun c s h hreset hrelease => exec_held h hreset hrelease⟩
  · exact congrArg Host.Outcome.next (if_pos h)
  · exact congrArg Host.Outcome.next (if_neg (by simp [h]))

/-- Settles O4: each command acts under its own guard, and the least of n and 32 is the announcement taken. -/
theorem linksStart : Obligations.LinksStart := by
  refine ⟨fun s hr hs => ?_, fun s hs => ?_, fun n s hr hc hn => ?_, fun n s h => ?_⟩
  · exact congrArg Host.Outcome.next (if_neg (by simp [hr, hs]))
  · exact congrArg Host.Outcome.next (if_pos (by simp [hs]))
  · have hmin : min n 32 = if 32 < n then 32 else n := by
      split <;> omega
    rw [← hmin]
    exact congrArg Host.Outcome.next (if_neg (by simp [hr, hc, hn]))
  · exact congrArg Host.Outcome.next (if_pos (by rcases h with h | h <;> simp [h]))

/-! ### The host link and the ingress head -/

/-- The three checks of an arrival, in their order (R137). -/
theorem arrive_eq (r : HostReq) (s : State) :
    arrive r s =
      if s.host.credit = 0 then
        { s with events := { s.events with
          pending := s.events.pending ||| Event.protocol.set
          fault := offered s.events.fault .protocol .host (r.tag.setWidth 8) (some r.addr) s.time.counter } }
      else if r.tag ∈ s.host.inPart then
        { s with
          host := { s.host with sent := s.host.sent ++ [HostMsg.creditReturn] }
          events := { s.events with
            pending := s.events.pending ||| Event.protocol.set
            fault := offered s.events.fault .protocol .host (r.tag.setWidth 8) (some r.addr) s.time.counter } }
      else
        { s with
          host := { s.host with credit := s.host.credit - 1, inPart := s.host.inPart ++ [r.tag] }
          ingress := { s.ingress with queue := s.ingress.queue ++ [r] } } := by
  simp only [arrive, violation, offerFault_eq, raise, List.contains_iff_mem]

/-- A write's bytes are as many as its length asks for (R135; log entry 8). -/
theorem linkData_length (n : Nat) (data : List Byte) (k : Nat) : (linkData n data k).length = n := by
  unfold linkData
  split
  next h => exact h
  · simp

theorem useFree_eq (n : Nat) (data : List Byte) (s : State) :
    useFree n data s = { s with freeCount := if data.length = n then s.freeCount else s.freeCount + 1 } := by
  unfold useFree
  split <;> rfl

/-- Settles O5: the arrival of the request that the message carries, after the free bytes that an odd message uses up. -/
theorem requestArrival : Obligations.RequestArrival := by
  rintro tag source addr len data c s hr (rfl | rfl)
  · refine ⟨⟨.read, tag, source, addr, len, []⟩, s.freeCount, ⟨rfl, rfl, rfl, rfl⟩, fun _ => ⟨rfl, rfl, rfl⟩,
      fun h => by simp at h, ?_⟩
    exact congrArg Host.Outcome.next ((if_neg (by simp [hr])).trans (arrive_eq _ s))
  · refine ⟨⟨.write, tag, source, addr, len, linkData len data s.freeCount⟩,
      if data.length = len then s.freeCount else s.freeCount + 1, ⟨rfl, rfl, rfl, rfl⟩, fun h => by simp at h,
      fun _ => ⟨rfl, linkData_length .., fun hlen => ⟨if_pos hlen, if_pos hlen⟩⟩, ?_⟩
    refine congrArg Host.Outcome.next ((if_neg (by simp [hr])).trans ?_)
    rw [useFree_eq, arrive_eq]

/-- Settles O6: the classifier's first case is the malformed request, whatever owns its line. -/
theorem malformedAnsweredAtHead : Obligations.MalformedAnsweredAtHead := by
  intro r rest s hr hq hw hbad
  rw [exec_classification hr hq hw, classifyHead, if_pos ((malformed_iff r).2 hbad), violation, offerFault_eq]
  simp only [popHead, hq, List.tail_cons]
  rfl

/-! ### Responses -/

/-- The outcome of a write's record, through its pair of the outcome map (R49). -/
theorem setOutcome_eq (tag : HostTag) (o : RecOutcome) (s : State) :
    setOutcome tag o s = { s with ring := (setOutcome tag o s).ring } := by
  unfold setOutcome
  split <;> rfl

theorem setOutcome_ring_of_none {tag : HostTag} {s : State} (h : s.ring.outcomeMap.find? (fun x => x.1 == tag) = none)
    (o : RecOutcome) : (setOutcome tag o s).ring = s.ring := by
  unfold setOutcome
  rw [h]

theorem setOutcome_ring_of_some {tag : HostTag} {seq : Nat} {s : State}
    (h : s.ring.outcomeMap.find? (fun x => x.1 == tag) = some (tag, seq)) (o : RecOutcome) :
    (setOutcome tag o s).ring = { s.ring with
      outcomeMap := s.ring.outcomeMap.filter fun x => x.1 != tag
      recs := s.ring.recs.map fun r => if r.seq = seq then r.setOutcome o else r } := by
  unfold setOutcome
  rw [h]

section
variable (m : MemReq) (st : MemStatus) (data : List Byte) (s : State)

/-- The host's answer changes the host link and the ring only (R147). -/
theorem hostResponded_eq : hostResponded m st data s =
    { s with host := (hostResponded m st data s).host, ring := (hostResponded m st data s).ring } := by
  obtain ⟨msgs, recs, pairs, hdoes⟩ := hostResponded_does m st data s
  rw [hdoes]

/-- The host's answer: the status, and the data of a read answered OK (R147). -/
theorem hostResponded_host : (hostResponded m st data s).host = { s.host with
    credit := s.host.credit + 1, inPart := s.host.inPart.erase (m.tag.setWidth 6)
    sent := s.host.sent ++
      [.response (m.tag.setWidth 6) (hostStatusOf st) (if m.kind = .read ∧ st = .ok then data else [])] } := by
  unfold hostResponded
  cases hk : m.kind with
  | read => cases st <;> rfl
  | write =>
    dsimp only
    rw [respond_host, setOutcome_eq]
    simp

/-- A read's answer leaves the ring; a write's goes to its record (R49). -/
theorem hostResponded_ring : (hostResponded m st data s).ring =
    match m.kind with
    | .read => s.ring
    | .write => (setOutcome (m.tag.setWidth 6) (outcomeOf st) s).ring := by
  unfold hostResponded
  cases m.kind with
  | read => cases st <;> rfl
  | write => rfl

end

/-- What the owner takes of a response's data, where that fits its length (R140). -/
theorem responseData_fits {m : MemReq} {st : MemStatus} {data : List Byte}
    (h : m.kind = .read → st = .ok → data.length = m.len) (k : Nat) :
    (if m.kind = .read ∧ st = .ok then responseData m st data k else []) = if m.kind = .read ∧ st = .ok then data else [] := by
  split
  next hread =>
    obtain ⟨hk, rfl⟩ := hread
    exact responseData_exact k hk (h hk rfl)
  · rfl

theorem hostTag_lt (tag : HostTag) : (tag.setWidth 8 : MemTag).toNat < 64 := by
  have hlt := tag.isLt
  rw [BitVec.toNat_setWidth]
  omega

/-- Settles O23: the tag's owner is the host, whose answer `hostResponded_host` and `hostResponded_ring` give; the grants leave
all but the memory link and the drain. -/
theorem hostRequestAnswered : Obligations.HostRequestAnswered := by
  refine ⟨fun _ _ => rfl, fun _ _ _ _ _ _ _ _ => ⟨rfl, rfl, rfl, rfl, rfl, rfl⟩, ?_⟩
  intro tag o status data s hans htag hlen
  have hself : (o.req.tag.setWidth 6 : HostTag) = tag := by rw [htag]; simp
  have hexec : exec (.memoryResponse tag status data) s = .next (settle (hostResponded o.req status
      (responseData o.req status data s.freeCount) (closeTag (tag.setWidth 8) s))) := by
    refine congrArg Host.Outcome.next ?_
    rw [routeResponse_answering hans, responseFree_exact s hlen, ownerResponded_host (by rw [htag]; exact hostTag_lt tag)]
  have hsame := hostResponded_eq o.req status (responseData o.req status data s.freeCount) (closeTag (tag.setWidth 8) s)
  have hhost := hostResponded_host o.req status (responseData o.req status data s.freeCount) (closeTag (tag.setWidth 8) s)
  have hring := hostResponded_ring o.req status (responseData o.req status data s.freeCount) (closeTag (tag.setWidth 8) s)
  rw [responseData_fits hlen, hself] at hhost
  rw [hself] at hring
  generalize hostResponded o.req status (responseData o.req status data s.freeCount) (closeTag (tag.setWidth 8) s) = u at *
  have hgrant := settle_grantWork u
  refine ⟨settle u, hexec, ?_, ?_, ?_, ?_, ?_⟩
  · rw [hgrant.host, hgrant.ring]
    exact congrArg settle hsame
  · rw [hgrant.host, hhost]
    cases status <;> rfl
  · rintro (hread | hnone)
    · rw [hgrant.ring, hring, hread]
      rfl
    · rw [hgrant.ring, hring]
      split
      · rfl
      · exact setOutcome_ring_of_none (s := closeTag (tag.setWidth 8) s) hnone _
  · intro seq hwrite hpair
    rw [hgrant.ring, hring, hwrite]
    exact setOutcome_ring_of_some (s := closeTag (tag.setWidth 8) s) hpair _
  · rw [hgrant.events, hgrant.hold, hgrant.session, hgrant.seqr, hgrant.windows, hgrant.rollback, hgrant.ingress, hgrant.time,
      hgrant.port, hgrant.engaged, hgrant.credit, hsame]
    exact ⟨rfl, rfl, rfl, rfl, rfl, rfl, rfl, rfl, rfl, rfl, rfl⟩

theorem stray_eq (tag : MemTag) (s : State) : stray tag s =
    { s with events := { s.events with
      pending := s.events.pending ||| Event.strayResponse.set
      fault := offered s.events.fault .strayResponse .memory tag none s.time.counter } } := by
  unfold stray
  rw [offerFault_eq]
  rfl

/-- Settles O24: each of the six rows is `routeResponse` of its tag, and a tag that is not outstanding makes it stray. -/
theorem strayResponseDropped : Obligations.StrayResponseDropped := by
  refine ⟨fun tag status data c s hr hnone hc => ?_, fun _ _ _ _ => rfl, fun _ _ _ _ => rfl, fun _ _ _ => rfl, fun _ _ => rfl,
    fun _ _ _ => rfl⟩
  have hroute : ∃ d, exec c s = .next (routeResponse tag status d s) := by
    rcases hc with rfl | ⟨h, rfl, rfl⟩ | ⟨i, rfl, rfl⟩ | ⟨rfl, rfl⟩ | ⟨rfl, rfl⟩ | ⟨n, rfl, rfl⟩
    · exact ⟨data, rfl⟩
    · exact ⟨data, rfl⟩
    · exact ⟨data, rfl⟩
    · exact ⟨data, rfl⟩
    · exact ⟨[], rfl⟩
    · exact ⟨[], rfl⟩
  obtain ⟨d, hd⟩ := hroute
  rw [hd, routeResponse_stray hr hnone, stray_eq]

end Sys2Proof.Machine
end

section
/-! The commands of the time base and of the event unit: the prescale, the pending and the enabled set with IRQ_N, and the
fault record. -/

namespace Sys2Proof.Machine

section
variable {f : Frame} {s : State}

/-! ### Time and events -/

/-- The prescale is stored, and the tick in progress keeps its own (R153). -/
theorem exec_timePrescale (h : s.resetHeld = false) (hf : 2 ≤ f.args.length) :
    exec (.timePrescale f) s = .next (answered .ok []
      { framed f s with time := { s.time with prescale := BitVec.ofNat 16 (argField f.args 0 2) } }) :=
  congrArg _ (portFrame_done h hf rfl)

/-- The named events leave the pending set (R156). -/
theorem exec_eventAck (h : s.resetHeld = false) (hf : 2 ≤ f.args.length) :
    exec (.eventAck f) s = .next (answered .ok []
      { framed f s with events := { s.events with pending := s.events.pending &&& ~~~ eventArg f.args } }) :=
  congrArg _ (portFrame_done h hf rfl)

/-- The enabled set is replaced whole (R155). -/
theorem exec_eventEnable (h : s.resetHeld = false) (hf : 2 ≤ f.args.length) :
    exec (.eventEnable f) s = .next (answered .ok []
      { framed f s with events := { s.events with enabled := eventArg f.args } }) :=
  congrArg _ (portFrame_done h hf rfl)

/-- The assigned events are the bits 0 to 12 (11.2). -/
theorem assignedEvents_getLsbD (k : Nat) : assignedEvents.getLsbD k = decide (k < 13) := by
  have hones : assignedEvents = BitVec.ofNat 16 (2 ^ 13 - 1) := rfl
  rw [hones, BitVec.getLsbD_ofNat, Nat.testBit_two_pow_sub_one, Bool.and_eq_right_iff_imp, decide_eq_true_iff,
    decide_eq_true_iff]
  omega

/-- A bit of an event argument counts where it is assigned (R155, R156). -/
theorem eventArg_getLsbD (args : List Byte) (k : Nat) :
    (eventArg args).getLsbD k = true ↔ k < 13 ∧ (argField args 0 2).testBit k = true := by
  rw [eventArg, BitVec.getLsbD_and, assignedEvents_getLsbD, BitVec.getLsbD_ofNat]
  simp only [Bool.and_eq_true, decide_eq_true_eq]
  constructor
  · exact fun ⟨⟨_, hbit⟩, hk⟩ => ⟨hk, hbit⟩
  · exact fun ⟨hk, hbit⟩ => ⟨⟨by omega, hbit⟩, hk⟩

/-- IRQ_N is asserted while some event is both pending and enabled (R157). -/
theorem irqAsserted_iff (s : State) : s.irqAsserted = true ↔
    ∃ k < 16, s.events.pending.getLsbD k = true ∧ s.events.enabled.getLsbD k = true := by
  rw [State.irqAsserted, bne_iff_ne, set16_ne_zero_iff]
  simp only [BitVec.getLsbD_and, Bool.and_eq_true]

/-- With the set of an event argument enabled, an assigned bit that is pending and named asserts IRQ_N (R155, R157). -/
theorem irqAsserted_iff_of_enabled {args : List Byte} (henabled : s.events.enabled = eventArg args) :
    s.irqAsserted = true ↔
      ∃ k < 13, s.events.pending.getLsbD k = true ∧ (argField args 0 2).testBit k = true := by
  rw [irqAsserted_iff, henabled]
  simp only [eventArg_getLsbD]
  constructor
  · exact fun ⟨k, _, hpending, hk, hbit⟩ => ⟨k, hk, hpending, hbit⟩
  · exact fun ⟨k, hk, hpending, hbit⟩ => ⟨k, by omega, hpending, hk, hbit⟩

/-! ### The fault record -/

/-- The record as the frame ends is the result, and the record is EMPTY in the same event (R160). -/
theorem exec_faultRead (h : s.resetHeld = false) :
    exec (.faultRead f) s = .next (answered .ok (faultBytes s.events.fault)
      { framed f s with events := { s.events with fault := none } }) :=
  congrArg Host.Outcome.next (portFrame_shows (run := fun _ t => shows (faultBytes t.events.fault) _) h (Nat.zero_le _) rfl)

/-- An EMPTY fault record is not changed by being emptied. -/
theorem emptied_of_fault_none (hnone : s.events.fault = none) :
    { framed f s with events := { s.events with fault := none } } = framed f s := by
  rw [← hnone]
  rfl

end

/-- Settles O48: each command is its frame's equation, and IRQ_N reads the intersection of the two sets bit by bit. -/
theorem timeAndEventCommands : Obligations.TimeAndEventCommands := by
  refine ⟨by decide, fun _ _ => rfl, irqAsserted_iff, fun f s h hf => ⟨_, exec_eventEnable h hf, ?_⟩, fun f s h hf =>
    ⟨exec_timePrescale h hf, exec_eventAck h hf, exec_eventEnable h hf⟩⟩
  exact irqAsserted_iff_of_enabled rfl

/-- Settles O49: both results are the layout of the record, and an offer to an EMPTY record fills it. -/
theorem faultRead : Obligations.FaultRead := by
  refine fun f s h => ⟨fun hnone => ?_, fun r hr => ?_, fun kind port tag addr hnone => ?_⟩
  · rw [exec_faultRead h, emptied_of_fault_none hnone, hnone]
    rfl
  · rw [exec_faultRead h, hr]
    obtain ⟨kind, port, tag, addr, time, more⟩ := r
    cases addr <;> rfl
  · rw [offerFault_eq, hnone]
    rfl

end Sys2Proof.Machine
end

section
/-! The management port: how samples of MOSI make bytes, what command a frame spells, what MISO carries, and the frames that
execute nothing. -/

namespace Sys2Proof

/-! ### The bits of a byte -/

@[simp] theorem msbBits_length (b : Byte) : (msbBits b).length = 8 := by simp [msbBits]

theorem msbBits_take (b : Byte) {n : Nat} (hn : n ≤ 8) :
    (msbBits b).take n = (List.range n).map fun k => b.getLsbD (7 - k) := by
  rw [msbBits, ← List.map_take, List.take_range, Nat.min_eq_left hn]

theorem msbBits_getD (b : Byte) {k : Nat} (hk : k < 8) : (msbBits b).getD k false = b.getLsbD (7 - k) := by
  simp [msbBits, List.getD_eq_getElem?_getD, hk]

/-- Eight samples are the bits of the byte that has them, most significant first (R163). -/
theorem exists_msbBits_eq {bits : List Bool} (h : bits.length = 8) : ∃ b : Byte, msbBits b = bits := by
  refine ⟨BitVec.ofFnLE fun i => bits.getD (7 - i) false, List.ext_getElem (by simp [h]) fun k hk hk' => ?_⟩
  have hk8 : 7 - (7 - k) = k := by omega
  simp [msbBits, BitVec.getLsbD_ofFnLE, hk8, hk', show 7 - k < 8 by omega]

/-- A frame's samples are the bits of whole bytes and fewer than eight left over (R163). -/
theorem exists_bytes_append (bits : List Bool) :
    ∃ (bytes : List Byte) (rest : List Bool), rest.length < 8 ∧ bits = bytes.flatMap msbBits ++ rest := by
  by_cases h : bits.length < 8
  · exact ⟨[], bits, h, rfl⟩
  · obtain ⟨b, hb⟩ := exists_msbBits_eq (bits := bits.take 8) (by rw [List.length_take]; omega)
    obtain ⟨bytes, rest, hrest, hdrop⟩ := exists_bytes_append (bits.drop 8)
    refine ⟨b :: bytes, rest, hrest, ?_⟩
    rw [List.flatMap_cons, List.append_assoc, ← hdrop, hb, List.take_append_drop]
termination_by bits.length
decreasing_by rw [List.length_drop]; omega

theorem flatMap_msbBits_length (bytes : List Byte) : (bytes.flatMap msbBits).length = 8 * bytes.length := by
  simp [List.length_flatMap, Nat.mul_comm]

/-- Bit `8 k + j` of some bytes' bits is bit `j` of byte `k`, counted from the most significant (R163). -/
theorem flatMap_msbBits_getD (rest : List Bool) {j : Nat} (hj : j < 8) : ∀ (bytes : List Byte) (k : Nat), k < bytes.length →
    (bytes.flatMap msbBits ++ rest).getD (8 * k + j) false = (bytes.getD k 0).getLsbD (7 - j)
  | b :: bytes, 0, _ => by
    rw [List.flatMap_cons, List.append_assoc, Nat.mul_zero, Nat.zero_add, List.getD_append _ _ _ _ (by simpa using hj),
      msbBits_getD b hj, List.getD_cons_zero]
  | b :: bytes, k + 1, hk => by
    rw [List.flatMap_cons, List.append_assoc, List.getD_append_right _ _ _ _ (by rw [msbBits_length]; omega),
      msbBits_length, show 8 * (k + 1) + j - 8 = 8 * k + j by omega,
      flatMap_msbBits_getD rest hj bytes k (by simpa using hk), List.getD_cons_succ]

/-- Whole bytes and fewer than eight samples left over are received as those bytes and that bit count (R163). -/
theorem receive_bytes_short (bytes : List Byte) {rest : List Bool} (h : rest.length < 8) :
    (receive (bytes.flatMap msbBits ++ rest)).received = bytes ∧
    (receive (bytes.flatMap msbBits ++ rest)).bitCount = rest.length := by
  obtain ⟨hbytes, hcount⟩ := receive_short h
  rw [receive_bytes, hbytes]
  exact ⟨List.append_nil bytes, hcount⟩

/-! ### Decoding -/

theorem decodeFrame_byte (code : Byte) (f : Frame) : decodeFrame (msbBits code ++ f.bits) = decodeCode code f := by
  have hdrop : (msbBits code ++ f.bits).drop 8 = f.bits := List.drop_left' (msbBits_length code)
  unfold decodeFrame
  rw [receive_byte, hdrop]

theorem decodeFrame_short {bits : List Bool} (h : bits.length < 8) :
    decodeFrame bits = .emptyFrame (Fin.ofNat 8 bits.length) := by
  obtain ⟨hnone, hcount⟩ := receive_short h
  unfold decodeFrame
  rw [hnone, hcount]

/-- A code that is not assigned spells UNKNOWN_COMMAND (R165, case 2). -/
theorem decodeCode_unassigned {code : Byte} (h : code ∉ assignedCodes) (f : Frame) :
    decodeCode code f = .unknownCommand code f := by
  have hne : ∀ n ∈ assignedCodes.map BitVec.toNat, code.toNat ≠ n := by
    rintro n hn rfl
    obtain ⟨c, hc, heq⟩ := List.mem_map.mp hn
    exact h (BitVec.eq_of_toNat_eq heq ▸ hc)
  unfold decodeCode
  split
  case h_34 => rfl
  all_goals exact absurd ‹code.toNat = _› (hne _ (by decide))

theorem firstArgIs_iff {f : Frame} {b : Byte} : firstArgIs f b = true ↔ f.args.head? = some b := by
  simp [firstArgIs]

/-- A CLEAR frame whose scope byte is that of no other row spells CLEAR_SESSION (log entry 12). -/
theorem decodeClear_session {f : Frame} (h2 : firstArgIs f 2 = false) (h3 : firstArgIs f 3 = false)
    (h4 : firstArgIs f 4 = false) : decodeClear f = .clearSession f := by
  unfold decodeClear
  split
  case h_4 => rfl
  case h_1 h => exact absurd (firstArgIs_iff.mpr h) (Bool.eq_false_iff.mp h2)
  case h_2 h => exact absurd (firstArgIs_iff.mpr h) (Bool.eq_false_iff.mp h3)
  case h_3 h => exact absurd (firstArgIs_iff.mpr h) (Bool.eq_false_iff.mp h4)

/-- A frame command that can be sent is spelled by its samples (10.6, R165). -/
theorem decodeFrame_encodeFrame {c : Instr} {bits : List Bool} (hwf : c.wellFormed = true)
    (h : encodeFrame c = some bits) : decodeFrame bits = c := by
  have ofCode : ∀ {code : Byte} {f : Frame}, some (msbBits code ++ f.bits) = some bits → decodeCode code f = c →
      decodeFrame bits = c := fun hbits hcode => Option.some.inj hbits ▸ (decodeFrame_byte _ _).trans hcode
  cases c with
  | pinReset | resetNRelease | readReq | writeReq | classification | creditAnnouncement | prereadResponse | memoryResponse
  | checkReadResponse | restoreResponse | drainResponse | strayResponse | tick | stageExpiry | hostCreditOffer => cases h
  | emptyFrame count =>
    obtain rfl := Option.some.inj h
    rw [decodeFrame_short (by simp), List.length_replicate, Fin.ofNat_val_eq_self]
  | unknownCommand code f =>
    refine ofCode h (decodeCode_unassigned (fun hmem => ?_) f)
    simp [Instr.wellFormed, hmem] at hwf
  | clearSession f =>
    obtain ⟨⟨h2, h3⟩, h4⟩ : (firstArgIs f 2 = false ∧ firstArgIs f 3 = false) ∧ firstArgIs f 4 = false := by
      simpa [Instr.wellFormed] using hwf
    exact ofCode (code := 0x03) h (decodeClear_session h2 h3 h4)
  | clearWindows f | clearEvents f | clearAll f =>
    refine ofCode (code := 0x03) h ?_
    show decodeClear f = _
    rw [decodeClear, firstArgIs_iff.mp hwf]
    rfl
  | _ => exact ofCode h rfl

namespace Machine

/-! ### What MISO carries -/

/-- The first `n` values of a list that goes on with zeros (R164). -/
theorem map_getD_range (l : List Byte) (n : Nat) :
    ((List.range n).map fun i => l.getD i 0) = (l ++ List.replicate n 0).take n := by
  refine List.ext_getElem (by simp) fun i hi _ => ?_
  have hin : i < n := by simpa using hi
  rw [List.getElem_take, List.getElem_map, List.getElem_range, List.getElem_append]
  split
  · exact List.getD_eq_getElem _ _ ‹_›
  · rw [List.getElem_replicate, List.getD_eq_default _ _ (by omega)]

theorem shiftOut_bytes (p : Port) (n k : Nat) :
    (p.shiftOut n k).bytes = ((p.heldOutcome.code :: p.heldResult) ++ List.replicate n 0).take n :=
  map_getD_range _ n

theorem shiftOut_bits (p : Port) (n : Nat) {k : Nat} (hk : k ≤ 8) :
    (p.shiftOut n k).bits = (List.range k).map fun i => (p.misoByte n).getLsbD (7 - i) :=
  msbBits_take _ hk

/-- Before the first byte is complete MISO has carried the first bits of the held outcome code alone (R164). -/
theorem shiftOut_zero (p : Port) {k : Nat} (hk : k ≤ 8) :
    p.shiftOut 0 k = { bytes := [], bits := (List.range k).map fun i => p.heldOutcome.code.getLsbD (7 - i) } :=
  congrArg (Shifted.mk []) (shiftOut_bits p 0 hk)

/-! ### Frames that execute nothing -/

/-- With no complete byte MISO has carried the first bits of the held outcome code, and nothing else happens (R164, R165). -/
theorem exec_emptyFrame (count : Fin 8) {s : State} (h : s.resetHeld = false) :
    exec (.emptyFrame count) s = .next { s with port := { s.port with
      inFrame := false, rx := Receiver.empty, awaitRise := false, shifted := s.port.shiftOut 0 count.val } } := by
  obtain ⟨hnone, hcount⟩ := receive_short (bits := List.replicate count.val false) (by simp)
  show execEmptyFrame count s = _
  rw [execEmptyFrame, if_neg (by simp [h]), during_rise, hnone, hcount, List.length_nil, List.length_replicate]

/-- Each of the four CLEAR rows is the one command CLEAR (log entry 12). -/
theorem exec_decodeClear (f : Frame) (s : State) :
    exec (decodeClear f) s = .next (portFrame 0x03 1 runClear f s) := by
  unfold decodeClear
  split <;> rfl

/-- The frame of an assigned code asks for as many argument bytes as the table of 10.6 says. -/
theorem exec_decodeCode {code : Byte} (hcode : code ∈ assignedCodes) (f : Frame) :
    ∃ run, ∀ s, exec (decodeCode code f) s = .next (portFrame code (argCount code) run f s) := by
  unfold assignedCodes at hcode
  fin_cases hcode
  -- The fourth code is CLEAR's, whose row depends on the scope byte.
  on_goal 4 => exact ⟨runClear, exec_decodeClear f⟩
  all_goals exact ⟨_, fun _ => rfl⟩

/-- Settles O30: the empty frame's shift register is read out, and the other two are the short and the refused end of a frame. -/
theorem framesThatExecuteNothing : Obligations.FramesThatExecuteNothing := by
  refine ⟨fun count s h => ?_, fun code f s h => congrArg _ (portFrame_refuses h (Nat.zero_le _) rfl),
    fun code f s h hcode hshort => ?_⟩
  · rw [exec_emptyFrame count h, shiftOut_zero s.port (by omega)]
    rfl
  · obtain ⟨run, hrun⟩ := exec_decodeCode hcode f
    rw [hrun, portFrame_short h hshort]

/-- Settles O31: the bytes and the left-over bits are read out of the held answer. -/
theorem misoCarriesHeldAnswer : Obligations.MisoCarriesHeldAnswer := by
  refine ⟨rfl, fun f s => ?_⟩
  have hleft : f.left ≤ 7 := f.left_le
  have hbits := shiftOut_bits s.port (1 + f.args.length) (k := f.left) (by omega)
  rw [framed_port]
  exact ⟨shiftOut_bytes s.port _ _, hleft, by simp [hbits],
    fun k hk => by simp [hbits, List.getD_eq_getElem?_getD, hk, Port.misoByte]⟩

end Machine

/-- Settles O50: commands come back by their codes, and samples are cut into whole bytes and the bits left over. -/
theorem frameDecodesToItsCommand : Obligations.FrameDecodesToItsCommand := by
  refine ⟨fun c bits => decodeFrame_encodeFrame, fun ⟨bits⟩ => ?_, fun p mosi => ⟨fun h => ?_, fun h => ?_⟩, fun _ _ => rfl⟩
  · obtain ⟨bytes, rest, hrest, rfl⟩ := exists_bytes_append bits
    obtain ⟨hargs, hleft⟩ := receive_bytes_short bytes hrest
    simp only [Frame.args, Frame.left, hargs, hleft, List.length_append, flatMap_msbBits_length]
    exact ⟨by omega, by omega, fun k j hk hj => (flatMap_msbBits_getD rest hj bytes k hk).symm⟩
  · simp [Machine.Port.fall, h]
  · simp [Machine.Port.clock, h]

end Sys2Proof
end

section
/-! A step with a command waiting; `step_idle` is the step with none. -/

namespace Sys2Proof.Machine

/-- With a command waiting, it leaves the queue and runs on the state with the queue's rest (log entry 1). -/
theorem step_of_pending_cons {c : Instr} {rest : List Instr} {s : State} (h : s.pending = c :: rest) :
    step s = exec c { s with pending := rest } := by
  rw [step, h]

/-- Settles O1: the queue written into the state is the queue that the step reads, and its rest replaces it. -/
theorem stepRunsFrontCommand : Obligations.StepRunsFrontCommand :=
  fun _ _ _ => step_of_pending_cons rfl

end Sys2Proof.Machine
end
